-- ==== Sys2Proof/Word.lean ====
section
/-! DEFINITION. Word.lean: the word types of the block (spec/00_scope.md R10, spec/30_encoding.md R70). -/

namespace Sys2Proof

/-- `u8` (R10): a wire byte, a segment pattern, an operand field of a request. -/
abbrev Byte := BitVec 8

/-- A request word, `req_word[31:0]` (R70). -/
abbrev ReqWord := BitVec 32

end Sys2Proof
end

