-- ==== Sys2Proof/Syntax.lean ====
section
/-! DEFINITION. Syntax.lean: the instructions (every row of spec/opcode_table.json), the glyphs and the assembler
lines of the spec, as data. -/

namespace Sys2Proof

/-- One constructor per row of spec/opcode_table.json.  The nine `req32` rows are the requests the block decodes
(spec/30_encoding.md R70 to R79); the five `wire8` rows are the bytes it emits (R82).  A request keeps the bits that
R78 calls ignored, because acceptance latches them into CUR_ARG (spec/42_display_controller.md R160). -/
inductive Instr where
  /-- INIT, OP 1; bits [27:0] ignored (R72). -/
  | init (ign : BitVec 28)
  /-- SETBRT, OP 2; bits [27:8] ignored, LEVEL = [7:0] (R73). -/
  | setbrt (ign : BitVec 20) (level : Byte)
  /-- CLEAR, OP 3; bits [27:0] ignored (R74). -/
  | clear (ign : BitVec 28)
  /-- SETDIG, OP 4; bits [27:16] ignored, POS = [15:8], GLYPH = [7:0] (R75). -/
  | setdig (ign : BitVec 12) (pos : Byte) (glyph : Byte)
  /-- SETPAT, OP 5; bits [27:16] ignored, POS = [15:8], PAT = [7:0] (R76). -/
  | setpat (ign : BitVec 12) (pos : Byte) (pat : Byte)
  /-- SETINT, OP 6; VALUE = [27:0], signed (R77). -/
  | setint (value : BitVec 28)
  /-- ILLEGAL, OP 0 (R79). -/
  | illegalZero (arg : BitVec 28)
  /-- ILLEGAL, OP 7 (R79). -/
  | illegalSeven (arg : BitVec 28)
  /-- ILLEGAL, OP 8 to 15: bit 31 is 1, `sub` is OP[2:0] (R79). -/
  | illegalHigh (sub : BitVec 3) (arg : BitVec 28)
  /-- FIXED_ADDR, the first byte of every render (R176). -/
  | fixedAddr
  /-- ADDR(p), the second byte of every render; p is 0..2 (R177). -/
  | addr (p : BitVec 2)
  /-- DATA(v), the third byte of every render (R178). -/
  | data (v : Byte)
  /-- DISP_ON(b), the last byte of every render (R179). -/
  | dispOn (b : BitVec 3)
  /-- DISP_OFF: a byte no request sends (R175). -/
  | dispOff
  deriving DecidableEq, Repr

/-- The `req32` rows. -/
def Instr.isRequest : Instr → Bool
  | .init _ | .setbrt _ _ | .clear _ | .setdig _ _ _ | .setpat _ _ _ | .setint _ => true
  | .illegalZero _ | .illegalSeven _ | .illegalHigh _ _ => true
  | .fixedAddr | .addr _ | .data _ | .dispOn _ | .dispOff => false

/-- A glyph reference `{K, V}` (spec/30_encoding.md R83): a table index 0..22 (K = 0) or a raw pattern (K = 1).
An index off the table is not a value of this type (spec/40_segment_encoder.md R105). -/
inductive GlyphRef where
  | index (i : Fin 23)
  | raw (v : Byte)
  deriving DecidableEq, Repr

/-- The source's closed `Glyph` enumeration (spec/40_segment_encoder.md R107). -/
inductive Glyph where
  | digit (d : Fin 10)
  | blank
  | dash
  | degree
  | custom (raw : Byte)
  deriving DecidableEq, Repr

/-- The segments of one digit (spec/40_segment_encoder.md R104): a to g and the decimal point. -/
inductive Segment where
  | a | b | c | d | e | f | g | dp
  deriving DecidableEq, Repr

/-- The assembler's lines (spec/30_encoding.md R84) and its one pseudo-instruction (R85), operands as written. -/
inductive Asm where
  | init
  | setbrt (level : Nat)
  | clear
  | setdig (pos glyph : Nat)
  | setpat (pos pattern : Nat)
  | setint (value : Int)
  | blank (pos : Nat)
  deriving DecidableEq, Repr

end Sys2Proof
end

