-- ==== Sys2Proof/Config.lean ====
section
/-! DEFINITION. Config.lean: the parameters of the block (spec/00_scope.md R8, R9; spec/10_state.md R37), the
configurations the spec admits, and the free values.  A free value is an opaque constant: nothing can be proved of it. -/

namespace Sys2Proof

/-- How a render is cut into transactions (R8, spec/42_display_controller.md R163). -/
inductive Framing where
  | single
  | perCommand
  deriving DecidableEq, Repr

/-- `BRIGHT_DEFAULT` (R8). -/
abbrev brightDefault : BitVec 3 := 2

/-- `BRIGHT_MAX` (R8). -/
abbrev brightMax : Nat := 7

/-- `INT_MAX` (R8). -/
abbrev intMax : Nat := 999

/-- `T_UNIT`'s default, the least value allowed, in nanoseconds (R8). -/
abbrev tUnitDefaultNs : Nat := 50000

/-- The parameters of R8 that a model instance fixes.  `tClkNs` is `t_clk_sys` of spec/41_bit_channel.md R122;
both times are whole nanoseconds (DESIGN CHOICE, log 4).  `SEG_TABLE_LEN` is the type's 23. -/
structure Params where
  /-- `N_DIGITS`. -/
  nDigits : Nat
  /-- `SEG_TABLE[0..22]`; entries 16..22 are `SEG_EXTRA`. -/
  segTable : Vector Byte 23
  /-- `BLANK_INDEX`. -/
  blankIndex : Fin 23
  /-- `DASH_INDEX` (spec/40_segment_encoder.md R107). -/
  dashIndex : Fin 23
  /-- `DEGREE_INDEX` (R107). -/
  degreeIndex : Fin 23
  /-- `CMD_FIXED_ADDR`. -/
  cmdFixedAddr : Byte
  /-- `CMD_ADDR_BASE`. -/
  cmdAddrBase : Byte
  /-- `CMD_DISP_ON_BASE`. -/
  cmdDispOnBase : Byte
  /-- `CMD_DISP_OFF`. -/
  cmdDispOff : Byte
  /-- `FRAMING`. -/
  framing : Framing
  /-- `T_UNIT`. -/
  tUnitNs : Nat
  /-- `t_clk_sys` (R122). -/
  tClkNs : Nat
  /-- `Q_CYCLES`. -/
  qCycles : Nat
  /-- `GAP_Q`. -/
  gapQ : Nat
  /-- `ISSUE_LAT`. -/
  issueLat : Nat
  /-- `RESP_LAT`. -/
  respLat : Nat
  deriving DecidableEq, Repr

/-- The constraints on a configuration: R9's four, the ranges of R8's table, R102's one value given by the source
(entry 7), R103 and R107 on the three named indices, and R122's timing condition
(`Q_CYCLES * t_clk_sys >= T_UNIT / 4`). -/
abbrev Params.Ok (p : Params) : Prop :=
  p.cmdDispOnBase.extractLsb' 0 3 = 0 ∧
  p.cmdAddrBase.extractLsb' 0 2 = 0 ∧
  p.segTable[p.blankIndex] = 0 ∧
  p.nDigits = 3 ∧
  p.segTable[7] = 7 ∧
  (16 ≤ p.blankIndex.val ∧ 16 ≤ p.dashIndex.val ∧ 16 ≤ p.degreeIndex.val) ∧
  (p.dashIndex ≠ p.blankIndex ∧ p.degreeIndex ≠ p.blankIndex ∧ p.degreeIndex ≠ p.dashIndex) ∧
  (1 ≤ p.qCycles ∧ 1 ≤ p.issueLat ∧ 1 ≤ p.respLat) ∧
  tUnitDefaultNs ≤ p.tUnitNs ∧
  p.tUnitNs ≤ 4 * (p.qCycles * p.tClkNs)

/-- A configuration the spec admits: parameters with the constraints checked once. -/
abbrev Config := { p : Params // p.Ok }

/-- A configuration that violates a constraint is refused by the model (R9): there is no instance of it. -/
def Config.ofParams (p : Params) : Option Config :=
  if h : p.Ok then some ⟨p, h⟩ else none

/-- `SEG_TABLE[0..15]`: the spec's defaults (spec/40_segment_encoder.md R102). -/
def stdSegments : Vector Byte 16 :=
  #v[0x3F, 0x06, 0x5B, 0x4F, 0x66, 0x6D, 0x7D, 0x07, 0x7F, 0x6F, 0x77, 0x7C, 0x39, 0x5E, 0x79, 0x71]

/-- `SEG_TABLE` from the defaults and seven extra patterns, with the blank entry at 0x00 (R9, R103). -/
def segTableOf (extra : Vector Byte 7) (blank : Fin 7) : Vector Byte 23 :=
  stdSegments ++ extra.set blank 0

/-! The free values. -/

/-- FREE (spec/41_bit_channel.md R133, 93 U7): the DIO level at the n-th acknowledgment sample, where the state's list
of input levels has ended. -/
opaque Config.freeSample : Nat → Bool

/-- FREE (R8 OPEN, R103): the seven extra patterns of the instance that `State.reset` names. -/
opaque Config.freeExtra : Fin 7 → Byte

/-- FREE (R8 OPEN): which extra entry is Blank. -/
opaque Config.freeBlank : Fin 7

/-- FREE (R107 OPEN): how far beyond Blank, around the seven extras, Dash stands. -/
opaque Config.freeDash : Fin 6

/-- FREE (R107 OPEN): which of the other five extras is Degree. -/
opaque Config.freeDegree : Fin 5

/-- FREE (R8 OPEN): `Q_CYCLES - 1`. -/
opaque Config.freeQ : Nat

/-- FREE (R122): how much the clock period exceeds the least one that conforms. -/
opaque Config.freeClk : Nat

/-- FREE (R8 OPEN): `ISSUE_LAT - 1`. -/
opaque Config.freeIssue : Nat

/-- FREE (R8 OPEN): `RESP_LAT - 1`. -/
opaque Config.freeResp : Nat

/-- Dash's place among the extras: never Blank's. -/
def dashOf (blank : Fin 7) (d : Fin 6) : Fin 7 :=
  blank + ⟨d.val + 1, by omega⟩

/-- Degree's place among the extras: neither Blank's nor Dash's. -/
def degreeOf (blank : Fin 7) (d : Fin 6) (g : Fin 5) : Fin 7 :=
  blank + (if g.val < d.val then ⟨g.val + 1, by omega⟩ else ⟨g.val + 2, by omega⟩)

/-- The place of an extra in SEG_TABLE: indices 16..22. -/
def extraIndex (i : Fin 7) : Fin 23 := ⟨16 + i.val, by omega⟩

/-- The parameters of the instance `State.reset` names: R8's defaults, and a free value for every OPEN entry. -/
def Params.specDefault : Params where
  nDigits := 3
  segTable := segTableOf (Vector.ofFn Config.freeExtra) Config.freeBlank
  blankIndex := extraIndex Config.freeBlank
  dashIndex := extraIndex (dashOf Config.freeBlank Config.freeDash)
  degreeIndex := extraIndex (degreeOf Config.freeBlank Config.freeDash Config.freeDegree)
  cmdFixedAddr := 0x44
  cmdAddrBase := 0xC0
  cmdDispOnBase := 0x88
  cmdDispOff := 0x80
  framing := .single
  tUnitNs := tUnitDefaultNs
  tClkNs := (tUnitDefaultNs + 4 * (Config.freeQ + 1) - 1) / (4 * (Config.freeQ + 1)) + Config.freeClk
  qCycles := Config.freeQ + 1
  gapQ := 0
  issueLat := Config.freeIssue + 1
  respLat := Config.freeResp + 1

theorem segTableOf_blank (extra : Vector Byte 7) (b : Fin 7) :
    (segTableOf extra b)[extraIndex b] = 0 := by
  have h := Vector.getElem_append (xs := stdSegments) (ys := extra.set b 0) (i := 16 + b.val) (by omega)
  rw [dif_neg (by omega)] at h
  exact h.trans (by simp)

theorem segTableOf_seven (extra : Vector Byte 7) (b : Fin 7) : (segTableOf extra b)[7] = 7 := by
  have h := Vector.getElem_append (xs := stdSegments) (ys := extra.set b 0) (i := 7) (by omega)
  rw [dif_pos (by omega)] at h
  exact h

theorem extras_distinct : ∀ (b : Fin 7) (d : Fin 6) (g : Fin 5),
    dashOf b d ≠ b ∧ degreeOf b d g ≠ b ∧ degreeOf b d g ≠ dashOf b d := by
  decide

theorem extraIndex_injective {i j : Fin 7} (h : extraIndex i = extraIndex j) : i = j := by
  have := congrArg Fin.val h
  simp only [extraIndex] at this
  omega

/-- Rounding the clock period up keeps R122's condition. -/
theorem quarter_covered (t q e : Nat) (hq : 1 ≤ q) : t ≤ 4 * (q * ((t + 4 * q - 1) / (4 * q) + e)) := by
  have h := Nat.div_add_mod (t + 4 * q - 1) (4 * q)
  have h' := Nat.mod_lt (t + 4 * q - 1) (show 0 < 4 * q by omega)
  have e1 : 4 * (q * ((t + 4 * q - 1) / (4 * q) + e)) = 4 * q * ((t + 4 * q - 1) / (4 * q)) + 4 * q * e := by ring
  have : 0 ≤ 4 * q * e := Nat.zero_le _
  omega

theorem Params.specDefault_ok : Params.specDefault.Ok := by
  obtain ⟨h1, h2, h3⟩ := extras_distinct Config.freeBlank Config.freeDash Config.freeDegree
  refine ⟨rfl, rfl, segTableOf_blank _ _, rfl, segTableOf_seven _ _, ?_, ?_, ?_, le_refl _, ?_⟩
  · exact ⟨Nat.le_add_right _ _, Nat.le_add_right _ _, Nat.le_add_right _ _⟩
  · exact ⟨fun h => h1 (extraIndex_injective h), fun h => h2 (extraIndex_injective h),
      fun h => h3 (extraIndex_injective h)⟩
  · exact ⟨Nat.le_add_left _ _, Nat.le_add_left _ _, Nat.le_add_left _ _⟩
  · exact quarter_covered _ _ _ (Nat.le_add_left _ _)

/-- The configuration of `State.reset` (log 1). -/
def Config.specDefault : Config := ⟨Params.specDefault, Params.specDefault_ok⟩

end Sys2Proof
end

