-- ==== Sys2Proof/Machine/State.lean ====
section
/-! DEFINITION. Machine/State.lean: everything the spec gives the machine (spec/10_state.md R22 to R36), what stops it,
and the state after reset (R38). -/

namespace Sys2Proof.Machine

/-- The sixteen micro-ops of spec/41_bit_channel.md R123: START, data bit, acknowledgment, STOP. -/
inductive MicroOp where
  | s1 | s2 | s3
  | b1 | b2 | b3
  | a1 | a2 | a3 | a4 | a5 | a6 | a7
  | p1 | p2 | p3
  deriving DecidableEq, Repr

/-- The phases of R24, codes 0 to 4. -/
inductive Phase where
  | idle | start | bit | ack | stop
  deriving DecidableEq, Repr

/-- The response codes of spec/30_encoding.md R80, all four values of the 2-bit field. -/
inductive Resp where
  | ok | nack | invalid | nodev
  deriving DecidableEq, Repr

/-- Where the request sequencer of a busy block is (R33, R161, spec/70_reset_and_hazards.md R231). -/
inductive Stage where
  /-- Reset has ended and the construction sequence has not begun (R231). -/
  | boot
  /-- A transaction is loaded, and its S1 is waiting for ISSUE_LAT or for the gap (spec/41_bit_channel.md R146). -/
  | issue
  /-- A transaction is being sent: its S1 is next, or is past. -/
  | run
  /-- The response is being prepared (RESP_LAT) or posted. -/
  | resp
  deriving DecidableEq, Repr

/-- How far one step of the model goes (log 3): one `clk_sys` cycle, or the whole of what begins there. -/
inductive Grain where
  | cycle
  | request
  deriving DecidableEq, Repr

/-- One event on the output ports, stamped with its `clk_sys` cycle: a micro-op with the pin registers after it, a
response pulse, or a cycle of reset. -/
inductive PortEvent where
  | micro (m : MicroOp) (cycle : Nat) (clk dio oe : Bool)
  | response (r : Resp) (cycle : Nat)
  | reset (cycle : Nat)
  deriving DecidableEq, Repr

/-- The pin state (R22). -/
structure Pins where
  /-- `CLK_OUT`. -/
  clkOut : Bool
  /-- `DIO_OUT`. -/
  dioOut : Bool
  /-- `DIO_OE`: true is output mode. -/
  dioOe : Bool
  deriving DecidableEq, Repr

/-- The BitChannel state (R24 to R27). -/
structure Channel where
  /-- `PHASE` and `USTEP`: the micro-op performed next; none in IDLE (log 7). -/
  pos : Option MicroOp
  /-- `BITIDX`. -/
  bitIdx : BitVec 3
  /-- `BYTEIDX`. -/
  byteIdx : BitVec 2
  /-- `FRAME[0..3]`. -/
  frame : Vector Byte 4
  /-- `FRAME_LEN`. -/
  frameLen : BitVec 3
  /-- `ACK_ACC`. -/
  ackAcc : Bool
  /-- `WAITCNT`. -/
  waitCnt : Nat
  deriving DecidableEq, Repr

/-- The DisplayController state (R28 to R33). -/
structure Control where
  /-- `BRIGHT`. -/
  bright : BitVec 3
  /-- `DISP[0..2]`. -/
  disp : Vector GlyphRef 3
  /-- `BUSY`. -/
  busy : Bool
  /-- `LAST_RESP`. -/
  lastResp : Resp
  /-- `CUR_OP`. -/
  curOp : BitVec 4
  /-- `CUR_ARG`. -/
  curArg : BitVec 28
  /-- `CUR_P`. -/
  curP : Fin 3
  /-- The current transaction index within a render (R33). -/
  curTx : Fin 3
  /-- `DIGITS[0..2]`. -/
  digits : Vector (BitVec 4) 3
  /-- `OP_ACK`. -/
  opAck : Bool
  /-- `RESP_VALID`. -/
  respValid : Bool
  /-- `RESP_CODE`. -/
  respCode : Resp
  /-- The sequencer's stage while BUSY (log 7). -/
  stage : Stage
  /-- Cycles left of ISSUE_LAT or RESP_LAT (log 7). -/
  latCnt : Nat
  deriving DecidableEq, Repr

/-- The surroundings (spec/00_scope.md R14) as plain data, and the model's own counters (log 2, log 3). -/
structure Env where
  /-- The levels of `rst` in the coming steps' cycles; low where the list has ended. -/
  rstIn : List Bool
  /-- What the host presents while `req_ready` = 1, cycle by cycle: `some w` is `req_valid` = 1 with `req_word` = w. -/
  reqIn : List (Option ReqWord)
  /-- The levels of `dio_in` at the coming acknowledgment samples; free where the list has ended. -/
  dioIn : List Bool
  /-- How many samples have been drawn. -/
  draws : Nat
  /-- How far one step goes. -/
  grain : Grain
  /-- The events on the output ports, newest first. -/
  trace : List PortEvent
  /-- How many `clk_sys` cycles have passed. -/
  cycles : Nat
  deriving DecidableEq, Repr

/-- The machine: its configuration (R37, carried along and never written) and all its state. -/
structure State where
  cfg : Config
  pins : Pins
  chan : Channel
  ctl : Control
  env : Env
  deriving DecidableEq, Repr

/-- The parameters of the machine's configuration. -/
abbrev State.params (s : State) : Params := s.cfg.val

/-- Why a step can stop the machine: nothing does.  The block has no trap, and every error ends in a response after which
it is fully usable (spec/60_exceptions.md R200, R204); every position, index and glyph that could be meaningless is no
value of its type.  Nobody raises a fault; that is safe only if no rule asks for one, and none does. -/
inductive Fault where
  deriving DecidableEq, Repr

/-- Why the model gives a term no meaning. -/
inductive Refusal where
  /-- Raised by an arm of `exec` without a meaning (none is left).  Safe. -/
  | notModelled (mnemonic : String)
  /-- Raised by `execAddr` for ADDR(3), a byte the block never emits (spec/20_memory.md R51, R56).  Safe. -/
  | noSuchDigit
  deriving DecidableEq, Repr

/-- The pins at the idle levels (spec/41_bit_channel.md R138). -/
def Pins.idle : Pins := { clkOut := true, dioOut := true, dioOe := true }

/-- The BitChannel's reset values (R38).  FRAME, FRAME_LEN and ACK_ACC are unspecified there: log 5. -/
def Channel.reset : Channel where
  pos := none
  bitIdx := 0
  byteIdx := 0
  frame := #v[0, 0, 0, 0]
  frameLen := 1
  ackAcc := false
  waitCnt := 0

/-- The DisplayController's reset values (R38).  DIGITS is unspecified there: log 5; the stage, the latency count and the
transaction index are log 7's. -/
def Control.reset (p : Params) : Control where
  bright := brightDefault
  disp := #v[.index p.blankIndex, .index p.blankIndex, .index p.blankIndex]
  busy := true
  lastResp := .ok
  curOp := 1
  curArg := 0
  curP := 0
  curTx := 0
  digits := #v[0, 0, 0]
  opAck := true
  respValid := false
  respCode := .ok
  stage := .boot
  latCnt := 0

/-- The surroundings before anything has happened: no reset pending, no request, no known sample. -/
def Env.start : Env where
  rstIn := []
  reqIn := []
  dioIn := []
  draws := 0
  grain := .request
  trace := []
  cycles := 0

/-- The state after reset of the block with configuration c, in surroundings e (R38, spec/70_reset_and_hazards.md
R230). -/
def State.resetFor (c : Config) (e : Env) : State where
  cfg := c
  pins := Pins.idle
  chan := Channel.reset
  ctl := Control.reset c.val
  env := e

/-- The machine right after reset (R38), in the configuration of log 1. -/
def State.reset : State := State.resetFor Config.specDefault Env.start

end Sys2Proof.Machine
end

