-- ==== Sys2Proof/Machine/Ops.lean ====
section
/-! DEFINITION. Machine/Ops.lean: the named operations on pins, position, time, ports and response.  The block has no
memory (spec/20_memory.md R50) and takes no exception: `respond` and `raiseInvalid` are how a request ends
(spec/60_exceptions.md R200 to R208). -/

namespace Sys2Proof.Machine

/-! Pins (spec/41_bit_channel.md R121). -/

/-- `pin(CLK) <- v`. -/
def State.setClk (s : State) (v : Bool) : State := { s with pins := { s.pins with clkOut := v } }

/-- `pin(DIO) <- v`. -/
def State.setDio (s : State) (v : Bool) : State := { s with pins := { s.pins with dioOut := v } }

/-- `dir(DIO) <- IN`. -/
def State.releaseDio (s : State) : State := { s with pins := { s.pins with dioOe := false } }

/-- `drive_low`: `DIO_OUT <- 0` and `DIO_OE <- 1` in the same cycle (R134). -/
def State.driveLow (s : State) : State := { s with pins := { s.pins with dioOut := false, dioOe := true } }

/-- INIT's `DIO_OE <- 1` (spec/42_display_controller.md R165). -/
def State.outputMode (s : State) : State := { s with pins := { s.pins with dioOe := true } }

/-! Time (spec/41_bit_channel.md R122). -/

/-- n cycles pass. -/
def State.pass (s : State) (n : Nat) : State := { s with env := { s.env with cycles := s.env.cycles + n } }

/-- `WAITCNT <- k * Q_CYCLES`. -/
def State.loadWait (s : State) (k : Nat) : State :=
  { s with chan := { s.chan with waitCnt := k * s.params.qCycles } }

/-- The loaded wait runs out. -/
def State.elapse (s : State) : State :=
  { s with chan := { s.chan with waitCnt := 0 }, env := { s.env with cycles := s.env.cycles + s.chan.waitCnt } }

/-- The gap between two transactions of one request: `GAP_Q * Q_CYCLES` idle cycles (R146). -/
def State.gap (s : State) : State := s.pass (s.params.gapQ * s.params.qCycles)

/-! Position (spec/41_bit_channel.md R123). -/

/-- The sequencer performs m next. -/
def State.goTo (s : State) (m : MicroOp) : State := { s with chan := { s.chan with pos := some m } }

/-- The sequencer is IDLE. -/
def State.goIdle (s : State) : State := { s with chan := { s.chan with pos := none } }

/-- `BITIDX <- i`. -/
def State.setBitIdx (s : State) (i : BitVec 3) : State := { s with chan := { s.chan with bitIdx := i } }

/-- `BYTEIDX <- j`. -/
def State.setByteIdx (s : State) (j : BitVec 2) : State := { s with chan := { s.chan with byteIdx := j } }

/-! The ports' inputs (spec/10_state.md R20; log 2). -/

/-- The level of `rst` in this cycle. -/
def State.rstLevel (s : State) : Bool := s.env.rstIn.headD false

/-- The next cycle's `rst`. -/
def State.popRst (s : State) : State := { s with env := { s.env with rstIn := s.env.rstIn.tail } }

/-- What the host presents after this cycle. -/
def State.popReq (s : State) : State := { s with env := { s.env with reqIn := s.env.reqIn.tail } }

/-- `sample()`: the level on `dio_in` (spec/41_bit_channel.md R133), free where the surroundings fix none. -/
def State.dioLevel (s : State) : Bool := s.env.dioIn.headD (Config.freeSample s.env.draws)

/-- One draw is taken. -/
def State.popSample (s : State) : State :=
  { s with env := { s.env with dioIn := s.env.dioIn.tail, draws := s.env.draws + 1 } }

/-- An event appears on the output ports. -/
def State.emit (s : State) (e : PortEvent) : State := { s with env := { s.env with trace := e :: s.env.trace } }

/-! The DisplayController's registers. -/

/-- Acceptance: `CUR_OP <- req_word[31:28]`, `CUR_ARG <- req_word[27:0]`, and BUSY from the next cycle
(spec/42_display_controller.md R160). -/
def State.latch (s : State) (op : BitVec 4) (arg : BitVec 28) : State :=
  { s with ctl := { s.ctl with curOp := op, curArg := arg, busy := true, respValid := false } }

/-- `BRIGHT <- b`. -/
def State.setBright (s : State) (b : BitVec 3) : State := { s with ctl := { s.ctl with bright := b } }

/-- `DISP[p] <- g`. -/
def State.setDisp (s : State) (p : Fin 3) (g : GlyphRef) : State :=
  { s with ctl := { s.ctl with disp := s.ctl.disp.set p g } }

/-- `CUR_P <- p`. -/
def State.setCurP (s : State) (p : Fin 3) : State := { s with ctl := { s.ctl with curP := p } }

/-- The transaction index within the render. -/
def State.setCurTx (s : State) (tx : Fin 3) : State := { s with ctl := { s.ctl with curTx := tx } }

/-- `DIGITS <- d`. -/
def State.setDigits (s : State) (d : Vector (BitVec 4) 3) : State := { s with ctl := { s.ctl with digits := d } }

/-! The response (spec/42_display_controller.md R161). -/

/-- The code of the response is decided; its pulse is still to come. -/
def State.prepareResponse (s : State) (r : Resp) : State :=
  { s with ctl := { s.ctl with respCode := r, stage := .resp, latCnt := 0 } }

/-- The response cycle: `resp_valid` is 1 with RESP_CODE, `LAST_RESP <- code`, and BUSY is 0 from the next cycle. -/
def State.closeResponse (s : State) : State :=
  ({ s with ctl := { s.ctl with lastResp := s.ctl.respCode, respValid := false, busy := false } }.emit
    (.response s.ctl.respCode s.env.cycles)).pass 1

/-- `respond(code)`: the response cycle comes RESP_LAT cycles from here. -/
def State.respond (s : State) (r : Resp) : State :=
  ((s.prepareResponse r).pass s.params.respLat).closeResponse

/-- `raise Invalid` = respond(INVALID): no write to BRIGHT, DISP, DIGITS or the pins, and no micro-op
(spec/60_exceptions.md R202). -/
def State.raiseInvalid (s : State) : State := s.respond .invalid

/-- A cycle in which `rst` = 1: every field takes its reset value, whatever was in progress (spec/70_reset_and_hazards.md
R230, R232); the surroundings go on. -/
def State.resetCycle (s : State) : State :=
  ((State.resetFor s.cfg s.env).emit (.reset s.env.cycles)).popRst.pass 1

end Sys2Proof.Machine
end

