-- ==== Sys2Proof/Machine/Illegal.lean ====
section
/-! DEFINITION. Machine/Illegal.lean: the requests with an illegal OP: accepted, answered INVALID, no other effect
(spec/30_encoding.md R79, spec/60_exceptions.md R202). -/

namespace Sys2Proof.Machine

/-- OP 0. -/
def execIllegalZero (arg : BitVec 28) (s : State) : Host.Outcome State Fault Refusal :=
  .next (s.latch 0 arg).raiseInvalid

/-- OP 7. -/
def execIllegalSeven (arg : BitVec 28) (s : State) : Host.Outcome State Fault Refusal :=
  .next (s.latch 7 arg).raiseInvalid

/-- OP 8 to 15. -/
def execIllegalHigh (sub : BitVec 3) (arg : BitVec 28) (s : State) : Host.Outcome State Fault Refusal :=
  .next (s.latch ((1 : BitVec 1) ++ sub) arg).raiseInvalid

end Sys2Proof.Machine
end

