-- ==== Sys2Proof/Machine/Flags.lean ====
section
/-! DEFINITION. Machine/Flags.lean: the flags of spec/10_state.md R34 and their only writers: ACK_ACC (R26,
spec/41_bit_channel.md R132) and OP_ACK (R32).  BUSY's writers are `latch`, `closeResponse` and reset. -/

namespace Sys2Proof.Machine

/-- An acknowledgment sample folded into a running AND: LOW acknowledges (spec/41_bit_channel.md R131). -/
def foldSample (acc level : Bool) : Bool := acc && !level

/-- A5: `ACK_ACC <- ACK_ACC && (a = 0)`, one draw taken (R132, R133). -/
def State.sampleAck (s : State) : State :=
  { s with chan := { s.chan with ackAcc := foldSample s.chan.ackAcc s.dioLevel } }.popSample

/-- `send` begins: `ACK_ACC <- 1` (spec/41_bit_channel.md R137). -/
def State.startAck (s : State) : State := { s with chan := { s.chan with ackAcc := true } }

/-- A rendering request begins: its running AND is true. -/
def State.startOpAck (s : State) : State := { s with ctl := { s.ctl with opAck := true } }

/-- A transaction's result folded into the request's: `OP_ACK <- OP_ACK && ACK_ACC`. -/
def State.foldOpAck (s : State) : State := { s with ctl := { s.ctl with opAck := s.ctl.opAck && s.chan.ackAcc } }

end Sys2Proof.Machine
end

