-- ==== Sys2Proof/Machine/BitChannel.lean ====
section
/-! DEFINITION. Machine/BitChannel.lean: the micro-op machine (spec/41_bit_channel.md R120 to R146): the table of R123,
one micro-op, and `send`, the whole transmission of R137. -/

namespace Sys2Proof.Machine

/-- The actions of R121. -/
inductive Action where
  | clk (v : Bool)
  | dio (v : Bool)
  | dioIn
  | sample
  | driveLow
  deriving DecidableEq, Repr

/-- The table's PHASE column. -/
def phaseOf : MicroOp → Phase
  | .s1 | .s2 | .s3 => .start
  | .b1 | .b2 | .b3 => .bit
  | .a1 | .a2 | .a3 | .a4 | .a5 | .a6 | .a7 => .ack
  | .p1 | .p2 | .p3 => .stop

/-- The table's USTEP column. -/
def ustepOf : MicroOp → BitVec 3
  | .s1 | .b1 | .a1 | .p1 => 0
  | .s2 | .b2 | .a2 | .p2 => 1
  | .s3 | .b3 | .a3 | .p3 => 2
  | .a4 => 3
  | .a5 => 4
  | .a6 => 5
  | .a7 => 6

/-- The codes of PHASE (spec/10_state.md R24). -/
def phaseCode : Phase → BitVec 3
  | .idle => 0
  | .start => 1
  | .bit => 2
  | .ack => 3
  | .stop => 4

/-- `PHASE`. -/
def State.phase (s : State) : Phase := (s.chan.pos.map phaseOf).getD .idle

/-- `USTEP`, 0 in IDLE (spec/10_state.md R38). -/
def State.ustep (s : State) : BitVec 3 := (s.chan.pos.map ustepOf).getD 0

/-- The table's wait column, in quarter units. -/
def waitOf : MicroOp → Nat
  | .s1 | .b3 | .p1 => 2
  | .a1 | .a4 | .a5 | .a7 => 0
  | .s2 | .s3 | .b1 | .b2 | .a2 | .a3 | .a6 | .p2 | .p3 => 1

/-- The table's action column; `bit` is `b[i]`. -/
def actionOf (bit : Bool) : MicroOp → Action
  | .s1 | .a2 | .p3 => .dio true
  | .s3 | .p1 => .dio false
  | .b2 => .dio bit
  | .s2 | .b3 | .a3 | .p2 => .clk true
  | .b1 | .a1 | .a7 => .clk false
  | .a4 => .dioIn
  | .a5 => .sample
  | .a6 => .driveLow

/-- `b = FRAME[BYTEIDX]`. -/
def State.curByte (s : State) : Byte := s.chan.frame[s.chan.byteIdx.toNat]'(s.chan.byteIdx.isLt)

/-- `b[i]`, i = BITIDX. -/
def State.curBit (s : State) : Bool := s.curByte.getLsbD s.chan.bitIdx.toNat

/-- What an action writes (R121). -/
def State.act (s : State) : Action → State
  | .clk v => s.setClk v
  | .dio v => s.setDio v
  | .dioIn => s.releaseDio
  | .sample => s.sampleAck
  | .driveLow => s.driveLow

/-- The table's last column: where the sequencer goes after a micro-op (R125, R127, R135, R136). -/
def State.moveOn (s : State) : MicroOp → State
  | .s1 => s.goTo .s2
  | .s2 => s.goTo .s3
  | .s3 => ((s.goTo .b1).setByteIdx 0).setBitIdx 0
  | .b1 => s.goTo .b2
  | .b2 => s.goTo .b3
  | .b3 => if s.chan.bitIdx.toNat < 7 then (s.goTo .b1).setBitIdx (s.chan.bitIdx + 1) else s.goTo .a1
  | .a1 => s.goTo .a2
  | .a2 => s.goTo .a3
  | .a3 => s.goTo .a4
  | .a4 => s.goTo .a5
  | .a5 => s.goTo .a6
  | .a6 => s.goTo .a7
  | .a7 =>
    if s.chan.byteIdx.toNat < s.chan.frameLen.toNat - 1 then
      ((s.goTo .b1).setByteIdx (s.chan.byteIdx + 1)).setBitIdx 0
    else s.goTo .p1
  | .p1 => s.goTo .p2
  | .p2 => s.goTo .p3
  | .p3 => s.goIdle

/-- The event of a micro-op: the pin registers after it. -/
def State.emitMicro (s : State) (m : MicroOp) : State :=
  s.emit (.micro m s.env.cycles s.pins.clkOut s.pins.dioOut s.pins.dioOe)

/-- One micro-op, performed in one cycle: its action, its place in the sequence, its wait loaded (R121, R122). -/
def State.perform (s : State) (m : MicroOp) : State :=
  ((((s.act (actionOf s.curBit m)).moveOn m).loadWait (waitOf m)).emitMicro m).pass 1

/-- One micro-op and the whole of its wait. -/
def State.op (s : State) (m : MicroOp) : State := (s.perform m).elapse

/-- `send`'s first line: FRAME, FRAME_LEN and ACK_ACC are written (R137). -/
def State.loadFrame (s : State) (bytes : List Byte) : State :=
  { s with chan := { s.chan with
      frame := #v[bytes.getD 0 s.chan.frame[0], bytes.getD 1 s.chan.frame[1],
        bytes.getD 2 s.chan.frame[2], bytes.getD 3 s.chan.frame[3]],
      frameLen := BitVec.ofNat 3 bytes.length } }.startAck

/-- START (R124). -/
def State.sendStart (s : State) : State := ((s.op .s1).op .s2).op .s3

/-- One data bit (R126). -/
def State.sendBit (s : State) : State := ((s.op .b1).op .b2).op .b3

/-- n data bits. -/
def State.sendBits : Nat → State → State
  | 0, s => s
  | n + 1, s => State.sendBits n s.sendBit

/-- The acknowledgment (R128 to R135). -/
def State.sendAck (s : State) : State := ((((((s.op .a1).op .a2).op .a3).op .a4).op .a5).op .a6).op .a7

/-- One byte: 8 data bits and the acknowledgment clock (R81). -/
def State.sendByte (s : State) : State := (State.sendBits 8 s).sendAck

/-- n bytes of the frame. -/
def State.sendBytes : Nat → State → State
  | 0, s => s
  | n + 1, s => State.sendBytes n s.sendByte

/-- STOP (R136). -/
def State.sendStop (s : State) : State := ((s.op .p1).op .p2).op .p3

/-- `send(bytes)`: one transaction (R137); its result is ACK_ACC. -/
def State.send (s : State) (bytes : List Byte) : State :=
  (State.sendBytes bytes.length ((s.loadFrame bytes).goTo .s1).sendStart).sendStop

/-- The byte v stands at BYTEIDX of the frame and its first data bit is next. -/
def State.placeByte (s : State) (v : Byte) : State :=
  ({ s with chan := { s.chan with
      frame := s.chan.frame.set s.chan.byteIdx.toNat v (s.chan.byteIdx.isLt) } }.goTo .b1).setBitIdx 0

/-- The byte v is shifted out at BYTEIDX of the frame and its acknowledgment sampled: a wire command of R82, whatever its
value means (R120). -/
def State.transmit (s : State) (v : Byte) : State := (s.placeByte v).sendByte

end Sys2Proof.Machine
end

