-- ==== Sys2Proof/Machine/Operands.lean ====
section
/-! DEFINITION. Machine/Operands.lean: the operand fields of CUR_ARG (spec/30_encoding.md R73 to R77), their validation
(spec/60_exceptions.md R202), and SETINT's arithmetic (spec/42_display_controller.md R171). -/

namespace Sys2Proof.Machine

/-- `CUR_ARG[7:0]`: LEVEL, GLYPH or PAT. -/
def argLow (a : BitVec 28) : Byte := a.extractLsb' 0 8

/-- `CUR_ARG[15:8]`: POS. -/
def argPos (a : BitVec 28) : Byte := a.extractLsb' 8 8

/-- A digit position, legal in 0..2. -/
def legalPos (b : Byte) : Option (Fin 3) := if h : b.toNat < 3 then some ⟨b.toNat, h⟩ else none

/-- A table index, legal in 0..22. -/
def legalGlyph (b : Byte) : Option (Fin 23) := if h : b.toNat < 23 then some ⟨b.toNat, h⟩ else none

/-- A brightness level, legal in 0..BRIGHT_MAX: `L[2:0]`. -/
def legalLevel (b : Byte) : Option (BitVec 3) :=
  if b.toNat ≤ brightMax then some (b.extractLsb' 0 3) else none

/-- `clamp(v, 0, INT_MAX)` of the signed operand. -/
def clampValue (v : BitVec 28) : Nat := (min (max v.toInt 0) intMax).toNat

/-- The hundreds, tens and units digits of the clamped operand. -/
def digitsOf (v : BitVec 28) : Vector (BitVec 4) 3 :=
  #v[BitVec.ofNat 4 (clampValue v / 100 % 10), BitVec.ofNat 4 (clampValue v / 10 % 10),
    BitVec.ofNat 4 (clampValue v % 10)]

/-- A decimal digit as a glyph reference `{0, d}`. -/
def digitRef (d : BitVec 4) : GlyphRef := .index ⟨d.toNat, by omega⟩

end Sys2Proof.Machine
end

