-- ==== Sys2Proof/Machine/Segment.lean ====
section
/-! DEFINITION. Machine/Segment.lean: the SegmentEncoder (spec/40_segment_encoder.md R100 to R107) and the 9-bit form of a
glyph reference (spec/30_encoding.md R83). -/

namespace Sys2Proof.Machine

/-- `encode({K, V})`: the raw pattern, or the table's entry (R101). -/
def segmentsOf (p : Params) : GlyphRef → Byte
  | .raw v => v
  | .index i => p.segTable[i]

/-- `{K, V}` as 9 bits, K at bit 8 (R83). -/
def glyphBits : GlyphRef → BitVec 9
  | .index i => BitVec.ofNat 9 i.val
  | .raw v => (1 : BitVec 1) ++ v

/-- The glyph reference that 9 bits stand for; refused where K = 0 and V is off the table (R105). -/
def glyphOfBits (b : BitVec 9) : Option GlyphRef :=
  if b.getLsbD 8 then some (.raw (b.extractLsb' 0 8))
  else if h : (b.extractLsb' 0 8).toNat < 23 then some (.index ⟨(b.extractLsb' 0 8).toNat, h⟩) else none

/-- `{0, BLANK_INDEX}`. -/
def blankRef (p : Params) : GlyphRef := .index p.blankIndex

/-- The glyph reference of a source glyph (R107). -/
def glyphRef (p : Params) : Glyph → GlyphRef
  | .digit d => .index ⟨d.val, by omega⟩
  | .blank => blankRef p
  | .dash => .index p.dashIndex
  | .degree => .index p.degreeIndex
  | .custom raw => .raw raw

/-- The bit of a pattern that a segment has under the standard assignment (R104, general knowledge: 93 G3). -/
def segmentBit : Segment → Nat
  | .a => 0
  | .b => 1
  | .c => 2
  | .d => 3
  | .e => 4
  | .f => 5
  | .g => 6
  | .dp => 7

/-- A pattern lights a segment. -/
def lights (pat : Byte) (seg : Segment) : Bool := pat.getLsbD (segmentBit seg)

end Sys2Proof.Machine
end

