-- ==== Sys2Proof/Machine/Render.lean ====
section
/-! DEFINITION. Machine/Render.lean: rendering (spec/42_display_controller.md R163, R164, R172) and the parts of a request
that the rendering requests share. -/

namespace Sys2Proof.Machine

/-- The wire byte of ADDR(p): `CMD_ADDR_BASE + p` (R164, R177). -/
def addrByte (p : Params) (pos : Fin 3) : Byte := p.cmdAddrBase + BitVec.ofNat 8 pos.val

/-- The wire byte of DISP_ON(b): `CMD_DISP_ON_BASE + b` (R164, R179). -/
def dispOnByte (p : Params) (b : BitVec 3) : Byte := p.cmdDispOnBase + b.setWidth 8

/-- The transactions of one render, each the list of its bytes (R163). -/
def renderFrames (p : Params) (b : BitVec 3) (pos : Fin 3) (pat : Byte) : List (List Byte) :=
  match p.framing with
  | .single => [[p.cmdFixedAddr, addrByte p pos, pat, dispOnByte p b]]
  | .perCommand => [[p.cmdFixedAddr], [addrByte p pos, pat], [dispOnByte p b]]

/-- One transaction of a request, index tx of its render: the gap of R146 unless it is the request's first, `send`, and its
result folded into OP_ACK (spec/10_state.md R32). -/
def State.sendFrame (s : State) (first : Bool) (tx : Fin 3) (bytes : List Byte) : State :=
  (((if first then s else s.gap).setCurTx tx).send bytes).foldOpAck

/-- The transactions of a render from index tx on. -/
def State.sendFrames : List (List Byte) → Bool → Fin 3 → State → State
  | [], _, _, s => s
  | f :: rest, first, tx, s => State.sendFrames rest false (tx + 1) (s.sendFrame first tx f)

/-- `render(p, pat)` (R163): every frame is sent, whatever is acknowledged. -/
def State.render (s : State) (first : Bool) (pos : Fin 3) (pat : Byte) : State :=
  State.sendFrames (renderFrames s.params s.ctl.bright pos pat) first 0 s

/-- `DISP[p] <- g` and then its render with the pattern of g (R172). -/
def State.show (s : State) (first : Bool) (pos : Fin 3) (g : GlyphRef) : State :=
  (s.setDisp pos g).render first pos (segmentsOf s.params g)

/-- The positions 0, 1, 2 in that order, each `CUR_P <- p`, DISP written and rendered; none is skipped after a failure
(R167, R170). -/
def State.showAll (s : State) (g0 g1 g2 : GlyphRef) : State :=
  ((((s.setCurP 0).show true 0 g0).setCurP 1).show false 1 g1).setCurP 2 |>.show false 2 g2

/-- `clear_seq` (R167). -/
def State.clearSeq (s : State) : State := s.showAll (blankRef s.params) (blankRef s.params) (blankRef s.params)

/-- A request with transactions begins: its running AND is true, and its first micro-op comes ISSUE_LAT cycles after
acceptance (spec/41_bit_channel.md R146). -/
def State.issue (s : State) : State := s.startOpAck.pass s.params.issueLat

/-- The response of a rendering request (spec/60_exceptions.md R205): OK, or the request's failure code. -/
def resultCode (failure : Resp) (ok : Bool) : Resp := if ok then .ok else failure

/-- `respond(ok ? OK : failure)`, ok being the request's aggregate OP_ACK. -/
def State.respondAck (s : State) (failure : Resp) : State := s.respond (resultCode failure s.ctl.opAck)

end Sys2Proof.Machine
end

