-- ==== Sys2Proof/Machine/Setup.lean ====
section
/-! DEFINITION. Machine/Setup.lean: the meanings of INIT and SETBRT (spec/42_display_controller.md R165, R166), and the
construction sequence. -/

namespace Sys2Proof.Machine

/-- The construction: output mode, BRIGHT_DEFAULT, every position cleared, and OK or NODEV (R165,
spec/60_exceptions.md R203).  INIT runs it, and reset runs it by itself (spec/70_reset_and_hazards.md R231). -/
def State.construct (s : State) : State :=
  ((s.outputMode.setBright brightDefault).issue.clearSeq).respondAck .nodev

/-- INIT (R165). -/
def execInit (ign : BitVec 28) (s : State) : Host.Outcome State Fault Refusal :=
  .next (s.latch 1 ign).construct

/-- SETBRT (R166): BRIGHT only, no bus activity; a level above 7 is INVALID. -/
def execSetbrt (ign : BitVec 20) (level : Byte) (s : State) : Host.Outcome State Fault Refusal :=
  .next (match legalLevel level with
    | some b => ((s.latch 2 (ign ++ level)).setBright b).respond .ok
    | none => (s.latch 2 (ign ++ level)).raiseInvalid)

end Sys2Proof.Machine
end

