-- ==== Sys2Proof/Machine/Show.lean ====
section
/-! DEFINITION. Machine/Show.lean: the meanings of CLEAR, SETDIG, SETPAT and SETINT (spec/42_display_controller.md R167
to R170). -/

namespace Sys2Proof.Machine

/-- CLEAR (R167). -/
def execClear (ign : BitVec 28) (s : State) : Host.Outcome State Fault Refusal :=
  .next ((s.latch 3 ign).issue.clearSeq.respondAck .nack)

/-- SETDIG (R168): one table glyph at one position; a position above 2 or an index above 22 is INVALID. -/
def execSetdig (ign : BitVec 12) (pos glyph : Byte) (s : State) : Host.Outcome State Fault Refusal :=
  .next (match legalPos pos, legalGlyph glyph with
    | some p, some g => ((s.latch 4 (ign ++ pos ++ glyph)).issue.show true p (.index g)).respondAck .nack
    | _, _ => (s.latch 4 (ign ++ pos ++ glyph)).raiseInvalid)

/-- SETPAT (R169): one raw pattern at one position; a position above 2 is INVALID. -/
def execSetpat (ign : BitVec 12) (pos pat : Byte) (s : State) : Host.Outcome State Fault Refusal :=
  .next (match legalPos pos with
    | some p => ((s.latch 5 (ign ++ pos ++ pat)).issue.show true p (.raw pat)).respondAck .nack
    | none => (s.latch 5 (ign ++ pos ++ pat)).raiseInvalid)

/-- SETINT's three renders, from DIGITS. -/
def State.showDigits (s : State) : State :=
  s.showAll (digitRef s.ctl.digits[0]) (digitRef s.ctl.digits[1]) (digitRef s.ctl.digits[2])

/-- SETINT (R170): the clamped operand's digits at positions 0, 1, 2; never INVALID. -/
def execSetint (value : BitVec 28) (s : State) : Host.Outcome State Fault Refusal :=
  .next (((s.latch 6 value).issue.setDigits (digitsOf value)).showDigits.respondAck .nack)

end Sys2Proof.Machine
end

