-- ==== Sys2Proof/Machine/Wire.lean ====
section
/-! DEFINITION. Machine/Wire.lean: the meanings of the wire commands (spec/30_encoding.md R82,
spec/42_display_controller.md R175 to R179): the block shifts the byte out and samples its acknowledgment
(spec/41_bit_channel.md R126 to R135).  What the receiver does with it is outside the block (spec/00_scope.md R6). -/

namespace Sys2Proof.Machine

/-- FIXED_ADDR (R176). -/
def execFixedAddr (s : State) : Host.Outcome State Fault Refusal := .next (s.transmit s.params.cmdFixedAddr)

/-- ADDR(p), p in 0..2 (R177); no other address is emitted (spec/20_memory.md R51, R56). -/
def execAddr (p : BitVec 2) (s : State) : Host.Outcome State Fault Refusal :=
  if h : p.toNat < 3 then .next (s.transmit (addrByte s.params ⟨p.toNat, h⟩)) else .refused .noSuchDigit

/-- DATA(v) (R178). -/
def execData (v : Byte) (s : State) : Host.Outcome State Fault Refusal := .next (s.transmit v)

/-- DISP_ON(b) (R179). -/
def execDispOn (b : BitVec 3) (s : State) : Host.Outcome State Fault Refusal :=
  .next (s.transmit (dispOnByte s.params b))

/-- DISP_OFF: no request reaches this arm (R175); a frame that held the byte would have it shifted out like any other
(spec/41_bit_channel.md R120; log 9). -/
def execDispOff (s : State) : Host.Outcome State Fault Refusal := .next (s.transmit s.params.cmdDispOff)

end Sys2Proof.Machine
end

