-- ==== Sys2Proof/Machine/Dispatch.lean ====
section
/-! DEFINITION. Machine/Dispatch.lean: one arm per instruction. -/

namespace Sys2Proof.Machine

def exec (i : Instr) (s : State) : Host.Outcome State Fault Refusal :=
  match i with
  | .init ign => Sys2Proof.Machine.execInit ign s
  | .setbrt ign level => Sys2Proof.Machine.execSetbrt ign level s
  | .clear ign => Sys2Proof.Machine.execClear ign s
  | .setdig ign pos glyph => Sys2Proof.Machine.execSetdig ign pos glyph s
  | .setpat ign pos pat => Sys2Proof.Machine.execSetpat ign pos pat s
  | .setint value => Sys2Proof.Machine.execSetint value s
  | .illegalZero arg => Sys2Proof.Machine.execIllegalZero arg s
  | .illegalSeven arg => Sys2Proof.Machine.execIllegalSeven arg s
  | .illegalHigh sub arg => Sys2Proof.Machine.execIllegalHigh sub arg s
  | .fixedAddr => Sys2Proof.Machine.execFixedAddr s
  | .addr p => Sys2Proof.Machine.execAddr p s
  | .data v => Sys2Proof.Machine.execData v s
  | .dispOn b => Sys2Proof.Machine.execDispOn b s
  | .dispOff => Sys2Proof.Machine.execDispOff s

end Sys2Proof.Machine
end

