-- ==== Sys2Proof/WellFormed.lean ====
section
/-! DEFINITION. WellFormed.lean: which instruction terms the spec gives a word. -/

namespace Sys2Proof

/-- ADDR(p) exists for p in 0..2 only: `pp = 11` is never emitted (spec/30_encoding.md R82, spec/20_memory.md R56).
Every other term has a word: a request's operand legality is checked after decode, at validation (R86). -/
def Instr.wellFormed : Instr → Bool
  | .addr p => decide (p.toNat < 3)
  | .init _ | .setbrt _ _ | .clear _ | .setdig _ _ _ | .setpat _ _ _ | .setint _ => true
  | .illegalZero _ | .illegalSeven _ | .illegalHigh _ _ => true
  | .fixedAddr | .data _ | .dispOn _ | .dispOff => true

/-- A request whose ignored bits are 0, as software should write them (R78). -/
def Instr.canonical : Instr → Bool
  | .init ign | .clear ign => decide (ign = 0)
  | .setbrt ign _ => decide (ign = 0)
  | .setdig ign _ _ | .setpat ign _ _ => decide (ign = 0)
  | .illegalZero arg | .illegalSeven arg | .illegalHigh _ arg => decide (arg = 0)
  | .setint _ | .fixedAddr | .addr _ | .data _ | .dispOn _ | .dispOff => true

end Sys2Proof
end

