-- ==== Sys2Proof/Decode.lean ====
section
/-! DEFINITION. Decode.lean: decoding of request words and wire bytes, the encoder, and the assembler
(spec/30_encoding.md R70 to R86). -/

namespace Sys2Proof

/-- Why bits are no instruction. -/
inductive DecodeError where
  /-- Neither a 32-bit request word nor an 8-bit wire byte (R70, R81). -/
  | badWidth
  /-- A byte in a command's place that is none of the commands of R82. -/
  | notACommand
  deriving DecidableEq, Repr

/-- Where in a render a wire byte stands: a DATA byte is DATA because it follows ADDR (R82). -/
inductive WirePlace where
  | command
  | afterAddr
  deriving DecidableEq, Repr

/-- Decoding of a request word, total (R71, R86). -/
def decodeRequest (w : ReqWord) : Instr :=
  match (w.extractLsb' 28 4).toNat with
  | 0 => .illegalZero (w.extractLsb' 0 28)
  | 1 => .init (w.extractLsb' 0 28)
  | 2 => .setbrt (w.extractLsb' 8 20) (w.extractLsb' 0 8)
  | 3 => .clear (w.extractLsb' 0 28)
  | 4 => .setdig (w.extractLsb' 16 12) (w.extractLsb' 8 8) (w.extractLsb' 0 8)
  | 5 => .setpat (w.extractLsb' 16 12) (w.extractLsb' 8 8) (w.extractLsb' 0 8)
  | 6 => .setint (w.extractLsb' 0 28)
  | 7 => .illegalSeven (w.extractLsb' 0 28)
  | _ => .illegalHigh (w.extractLsb' 28 3) (w.extractLsb' 0 28)

/-- Decoding of a byte in a command's place (R82), under the command values of a configuration. -/
def decodeCommand (p : Params) (b : Byte) : Option Instr :=
  if b = p.cmdFixedAddr then some .fixedAddr
  else if (b - p.cmdAddrBase).toNat < 3 then some (.addr ((b - p.cmdAddrBase).extractLsb' 0 2))
  else if (b - p.cmdDispOnBase).toNat < 8 then some (.dispOn ((b - p.cmdDispOnBase).extractLsb' 0 3))
  else if b = p.cmdDispOff then some .dispOff
  else none

/-- Decoding of a wire byte in its place. -/
def decodeWire (p : Params) : WirePlace → Byte → Except DecodeError Instr
  | .afterAddr, b => .ok (.data b)
  | .command, b =>
    match decodeCommand p b with
    | some i => .ok i
    | none => .error .notACommand

/-- Decoding of a byte whose place is not known: a command's value, else DATA.  The table's rows read so (log 8). -/
def decodeByte (p : Params) (b : Byte) : Instr := (decodeCommand p b).getD (.data b)

/-- Decoding of nbits bits, total, rejecting by name. -/
def decode (p : Params) (nbits w : Nat) : Except DecodeError Instr :=
  if nbits = 32 then .ok (decodeRequest (BitVec.ofNat 32 w))
  else if nbits = 8 then .ok (decodeByte p (BitVec.ofNat 8 w))
  else .error .badWidth

/-- The command values of spec/opcode_table.json, the spec's defaults (R82). -/
def decodeTableWord (nbits w : Nat) : Option Instr := (decode Params.specDefault nbits w).toOption

/-- The word of a request (R70 to R79). -/
def encodeRequest : Instr → Option ReqWord
  | .illegalZero arg => some ((0 : BitVec 4) ++ arg)
  | .init ign => some ((1 : BitVec 4) ++ ign)
  | .setbrt ign level => some ((2 : BitVec 4) ++ ign ++ level)
  | .clear ign => some ((3 : BitVec 4) ++ ign)
  | .setdig ign pos glyph => some ((4 : BitVec 4) ++ ign ++ pos ++ glyph)
  | .setpat ign pos pat => some ((5 : BitVec 4) ++ ign ++ pos ++ pat)
  | .setint value => some ((6 : BitVec 4) ++ value)
  | .illegalSeven arg => some ((7 : BitVec 4) ++ arg)
  | .illegalHigh sub arg => some ((1 : BitVec 1) ++ sub ++ arg)
  | .fixedAddr | .addr _ | .data _ | .dispOn _ | .dispOff => none

/-- The byte of a wire command (R82). -/
def encodeWire (p : Params) : Instr → Option Byte
  | .fixedAddr => some p.cmdFixedAddr
  | .addr pos => some (p.cmdAddrBase + pos.setWidth 8)
  | .data v => some v
  | .dispOn b => some (p.cmdDispOnBase + b.setWidth 8)
  | .dispOff => some p.cmdDispOff
  | .init _ | .setbrt _ _ | .clear _ | .setdig _ _ _ | .setpat _ _ _ | .setint _ => none
  | .illegalZero _ | .illegalSeven _ | .illegalHigh _ _ => none

/-- The encoder: the width and the bits of an instruction that has a word. -/
def encode (p : Params) (i : Instr) : Option (Nat × Nat) :=
  if i.wellFormed then
    match encodeRequest i with
    | some w => some (32, w.toNat)
    | none => (encodeWire p i).map fun b => (8, b.toNat)
  else none

/-- The command values of a configuration do not overlap, as R82 says of the defaults. -/
def Params.commandsDistinct (p : Params) : Bool :=
  decide (3 ≤ (p.cmdFixedAddr - p.cmdAddrBase).toNat) && decide (8 ≤ (p.cmdFixedAddr - p.cmdDispOnBase).toNat) &&
  decide (p.cmdFixedAddr ≠ p.cmdDispOff) &&
  decide (8 ≤ (p.cmdAddrBase - p.cmdDispOnBase).toNat) && decide (3 ≤ (p.cmdDispOnBase - p.cmdAddrBase).toNat) &&
  decide (3 ≤ (p.cmdDispOff - p.cmdAddrBase).toNat) && decide (8 ≤ (p.cmdDispOff - p.cmdDispOnBase).toNat)

/-- A field's operand as bits; refused where it does not fit (R84). -/
def fitsField (width n : Nat) : Option (BitVec width) :=
  if n < 2 ^ width then some (BitVec.ofNat width n) else none

/-- SETINT's operand: a signed decimal in -2^27..2^27-1 (R84). -/
def fitsValue (v : Int) : Option (BitVec 28) :=
  if -(2 ^ 27) ≤ v ∧ v < 2 ^ 27 then some (BitVec.ofInt 28 v) else none

/-- The assembler (R84, R85): the request of a line, ignored bits 0; a line whose operand does not fit is refused. -/
def assemble (p : Params) : Asm → Option Instr
  | .init => some (.init 0)
  | .clear => some (.clear 0)
  | .setbrt level => (fitsField 8 level).map (.setbrt 0)
  | .setdig pos glyph => (fitsField 8 pos).bind fun a => (fitsField 8 glyph).map (.setdig 0 a)
  | .setpat pos pattern => (fitsField 8 pos).bind fun a => (fitsField 8 pattern).map (.setpat 0 a)
  | .setint v => (fitsValue v).map .setint
  | .blank pos => (fitsField 8 pos).map fun a => .setdig 0 a (BitVec.ofNat 8 p.blankIndex.val)

/-- The word of an assembler line. -/
def assembleWord (p : Params) (line : Asm) : Option ReqWord := (assemble p line).bind encodeRequest

end Sys2Proof
end

