-- ==== Sys2Proof/Machine/Clock.lean ====
section
/-! DEFINITION. Machine/Clock.lean: one `clk_sys` cycle of the block, from any state: reset, acceptance, latency, wait,
micro-op, response.  It is written as the sequencer of spec/10_state.md R33, not over the meanings of Dispatch.lean, so
that the two can be held against each other. -/

namespace Sys2Proof.Machine

/-- How many transactions a render has (spec/42_display_controller.md R163). -/
def frameCount (p : Params) : Nat :=
  match p.framing with
  | .single => 1
  | .perCommand => 3

/-- S1 is next once ISSUE_LAT and the gap are over; until then the phase stays IDLE (spec/41_bit_channel.md R146,
spec/10_state.md R38). -/
def State.launch (s : State) : State :=
  if s.ctl.latCnt = 0 ∧ s.chan.waitCnt = 0 then { s.goTo .s1 with ctl := { s.ctl with stage := .run } } else s

/-- Transaction tx of the render of position pos is loaded (spec/41_bit_channel.md R137), and its S1 is awaited. -/
def State.beginTx (s : State) (pos tx : Fin 3) : State :=
  ({ s with ctl := { s.ctl with stage := .issue, curTx := tx } }).loadFrame
    ((renderFrames s.params s.ctl.bright pos (segmentsOf s.params (s.ctl.disp.get pos))).getD tx.val [])

/-- `DISP[pos] <- g`, and the first transaction of its render is loaded (spec/42_display_controller.md R172). -/
def State.beginRender (s : State) (pos : Fin 3) (g : GlyphRef) : State := (s.setDisp pos g).beginTx pos 0

/-- A rendering request begins in the cycle it is accepted; S1 comes ISSUE_LAT cycles later (R146). -/
def State.beginBus (s : State) (pos : Fin 3) (g : GlyphRef) : State :=
  ({ s.startOpAck with ctl := { s.startOpAck.ctl with latCnt := s.params.issueLat - 1 } }.beginRender pos g).launch

/-- The code of the response is decided, and RESP_VALID is written n cycles after this one (R161). -/
def State.schedule (s : State) (r : Resp) (n : Nat) : State :=
  { s with ctl := { s.ctl with respCode := r, stage := .resp, respValid := decide (n = 0), latCnt := n - 1 } }

/-- A request without a transaction is answered RESP_LAT cycles after acceptance (R161). -/
def State.answer (s : State) (r : Resp) : State := s.schedule r (s.params.respLat - 1)

/-- INIT and the construction after reset begin (R165, spec/70_reset_and_hazards.md R231). -/
def State.startInit (s : State) : State :=
  ((s.outputMode.setBright brightDefault).setCurP 0).beginBus 0 (blankRef s.params)

/-- Dispatch on CUR_OP in the cycle of acceptance: validation first, then the first writes (R162, R165 to R170). -/
def State.dispatch (s : State) : State :=
  match s.ctl.curOp.toNat with
  | 1 => s.startInit
  | 2 =>
    match legalLevel (argLow s.ctl.curArg) with
    | some b => (s.setBright b).answer .ok
    | none => s.answer .invalid
  | 3 => (s.setCurP 0).beginBus 0 (blankRef s.params)
  | 4 =>
    match legalPos (argPos s.ctl.curArg), legalGlyph (argLow s.ctl.curArg) with
    | some p, some g => s.beginBus p (.index g)
    | _, _ => s.answer .invalid
  | 5 =>
    match legalPos (argPos s.ctl.curArg) with
    | some p => s.beginBus p (.raw (argLow s.ctl.curArg))
    | none => s.answer .invalid
  | 6 =>
    ((s.setDigits (digitsOf s.ctl.curArg)).setCurP 0).beginBus 0 (digitRef (digitsOf s.ctl.curArg)[0])
  | _ => s.answer .invalid

/-- The requests that render every position: INIT, CLEAR, SETINT. -/
def State.rendersAll (s : State) : Bool := s.ctl.curOp == 1 || s.ctl.curOp == 3 || s.ctl.curOp == 6

/-- The position being rendered: CUR_P, or the operand of SETDIG and SETPAT (spec/10_state.md R32). -/
def State.renderPos (s : State) : Option (Fin 3) :=
  if s.rendersAll then some s.ctl.curP else legalPos (argPos s.ctl.curArg)

/-- The glyph the request shows at position p, of a request that renders every position. -/
def State.nextGlyph (s : State) (p : Fin 3) : GlyphRef :=
  if s.ctl.curOp == 6 then digitRef (s.ctl.digits.get p) else blankRef s.params

/-- The response code of the rendering request (spec/60_exceptions.md R203, R205). -/
def State.outcome (s : State) : Resp := resultCode (if s.ctl.curOp == 1 then .nodev else .nack) s.ctl.opAck

/-- A transaction has ended: its result is folded into OP_ACK, and the next transaction of the render, the next position's
render, or the response follows (spec/10_state.md R33, R146). -/
def State.endFrame (s : State) : State :=
  let t := s.foldOpAck
  match t.renderPos with
  | some pos =>
    if t.ctl.curTx.val + 1 < frameCount t.params then ((t.beginTx pos (t.ctl.curTx + 1)).loadWait t.params.gapQ).launch
    else if t.rendersAll && decide (t.ctl.curP.val < 2) then
      (((t.setCurP (t.ctl.curP + 1)).beginRender (t.ctl.curP + 1) (t.nextGlyph (t.ctl.curP + 1))).loadWait
        t.params.gapQ).launch
    else t.schedule t.outcome t.params.respLat
  | none => t.schedule t.outcome t.params.respLat

/-- WAITCNT counts down a cycle (R122). -/
def State.countWait (s : State) : State :=
  { s with chan := { s.chan with waitCnt := s.chan.waitCnt - 1 } }.pass 1

/-- The latency counter counts down a cycle. -/
def State.countLatency (s : State) : State :=
  { s with ctl := { s.ctl with latCnt := s.ctl.latCnt - 1 } }.pass 1

/-- A cycle in which S1 waits for ISSUE_LAT or for the gap. -/
def State.issueCycle (s : State) : State := (if 0 < s.ctl.latCnt then s.countLatency else s.countWait).launch

/-- A cycle of a transaction: wait, or one micro-op; the transaction ends with P3's wait. -/
def State.runCycle (s : State) : State :=
  if 0 < s.chan.waitCnt then
    if s.chan.waitCnt = 1 ∧ s.chan.pos = none then s.countWait.endFrame else s.countWait
  else
    match s.chan.pos with
    | some m => s.perform m
    | none => s.endFrame.pass 1

/-- A cycle of RESP_LAT; the last one writes RESP_VALID. -/
def State.respCycle (s : State) : State :=
  if 0 < s.ctl.latCnt then s.countLatency else { s with ctl := { s.ctl with respValid := true } }.pass 1

/-- A cycle in which `req_ready` = 1: the request presented, if there is one, is accepted (R160). -/
def State.readyCycle (s : State) : State :=
  match s.env.reqIn with
  | some w :: _ => ((s.popReq.latch (w.extractLsb' 28 4) (w.extractLsb' 0 28)).dispatch).pass 1
  | _ => { s with ctl := { s.ctl with respValid := false } }.popReq.pass 1

/-- A cycle in which `rst` = 0. -/
def State.liveCycle (s : State) : State :=
  if s.ctl.busy = false then s.readyCycle
  else if s.ctl.respValid then s.closeResponse
  else
    match s.ctl.stage with
    | .boot => s.startInit.pass 1
    | .issue => s.issueCycle
    | .run => s.runCycle
    | .resp => s.respCycle

/-- One `clk_sys` cycle. -/
def State.tick (s : State) : State := if s.rstLevel then s.resetCycle else s.popRst.liveCycle

/-- The cycles of a transaction of n bytes (spec/41_bit_channel.md R141). -/
def frameCycles (p : Params) (n : Nat) : Nat := (6 + 31 * n) + (8 + 35 * n) * p.qCycles

/-- The cycles of the S1 of each transaction of a request, the first of them performed in cycle c (R146); the lengths are
the transactions'. -/
def frameStarts (p : Params) : Nat → List Nat → List Nat
  | _, [] => []
  | c, n :: r => c :: frameStarts p (c + frameCycles p n + p.gapQ * p.qCycles) r

/-- The cycles from acceptance to the response of a request with transactions of the given lengths
(spec/70_reset_and_hazards.md R244). -/
def requestCycles (p : Params) (lens : List Nat) : Nat :=
  match lens with
  | [] => p.respLat
  | _ => p.issueLat + (lens.map (frameCycles p)).sum + (lens.length - 1) * (p.gapQ * p.qCycles) + p.respLat

/-! Which glyph a request shows where. -/

/-- The glyph the request in CUR_OP and CUR_ARG shows at position p; none where it shows none (R165 to R170). -/
def State.requestGlyph (s : State) (p : Fin 3) : Option GlyphRef :=
  match s.ctl.curOp.toNat with
  | 1 | 3 => some (.index s.params.blankIndex)
  | 4 => (legalGlyph (argLow s.ctl.curArg)).map .index
  | 5 => some (.raw (argLow s.ctl.curArg))
  | 6 => some (.index ⟨((digitsOf s.ctl.curArg).get p).toNat, by omega⟩)
  | _ => none

/-- The lengths of one render's transactions. -/
def renderLens (p : Params) : List Nat :=
  match p.framing with
  | .single => [4]
  | .perCommand => [1, 2, 1]

/-- The lengths of a request's transactions (spec/42_display_controller.md R180). -/
def requestLens (p : Params) : Instr → List Nat
  | .init _ | .clear _ | .setint _ => renderLens p ++ renderLens p ++ renderLens p
  | .setdig _ pos glyph => if (legalPos pos).isSome && (legalGlyph glyph).isSome then renderLens p else []
  | .setpat _ pos _ => if (legalPos pos).isSome then renderLens p else []
  | .setbrt _ _ | .illegalZero _ | .illegalSeven _ | .illegalHigh _ _ => []
  | .fixedAddr | .addr _ | .data _ | .dispOn _ | .dispOff => []

end Sys2Proof.Machine
end

