-- ==== Sys2Proof/Machine/Fetch.lean ====
section
/-! DEFINITION. Machine/Fetch.lean: where the next instruction stands: a request on the request port
(spec/42_display_controller.md R160), or the frame's byte at a byte boundary (spec/41_bit_channel.md R126). -/

namespace Sys2Proof.Machine

/-- Where the byte at BYTEIDX stands in its render: the byte after ADDR is DATA (spec/42_display_controller.md R178). -/
def State.wirePlace (s : State) : WirePlace :=
  match s.params.framing with
  | .single => if s.chan.byteIdx = 2 then .afterAddr else .command
  | .perCommand => if s.ctl.curTx = 1 ∧ s.chan.byteIdx = 1 then .afterAddr else .command

/-- The BitChannel is about to shift the first bit of a byte. -/
def State.atByte (s : State) : Bool :=
  s.ctl.busy && !s.ctl.respValid && decide (s.ctl.stage = .run) &&
  decide (s.chan.waitCnt = 0) && decide (s.chan.pos = some .b1) && decide (s.chan.bitIdx = 0)

/-- The instruction that begins in this cycle, and the state once it is taken. -/
def State.fetch (s : State) : Option (Instr × State) :=
  if s.ctl.busy = false then
    match s.env.reqIn with
    | some w :: _ => some (decodeRequest w, s.popReq)
    | _ => none
  else if s.atByte then
    match decodeWire s.params s.wirePlace s.curByte with
    | .ok i => some (i, s)
    | .error _ => none
  else none

/-- The construction after reset begins in this cycle (spec/70_reset_and_hazards.md R231). -/
def State.atBoot (s : State) : Bool := s.ctl.busy && !s.ctl.respValid && decide (s.ctl.stage = .boot)

/-- Where a wire command stands: its transaction, its byte, and that transaction's length
(spec/42_display_controller.md R163).  DISP_OFF, which no render has (R175), is put in DISP_ON's place, the last byte, and
so would be a request, which no caller gives: DESIGN CHOICE (log 9). -/
def wireSlot (f : Framing) (i : Instr) : Fin 3 × BitVec 2 × BitVec 3 :=
  match f, i with
  | .single, .fixedAddr => (0, 0, 4)
  | .single, .addr _ => (0, 1, 4)
  | .single, .data _ => (0, 2, 4)
  | .single, _ => (0, 3, 4)
  | .perCommand, .fixedAddr => (0, 0, 1)
  | .perCommand, .addr _ => (1, 0, 2)
  | .perCommand, .data _ => (1, 1, 2)
  | .perCommand, _ => (2, 0, 1)

/-- The host presents the request w to a ready block. -/
def State.presentRequest (s : State) (w : ReqWord) : State :=
  { s with
    ctl := { s.ctl with busy := false, respValid := false }
    env := { s.env with rstIn := [], grain := .request, reqIn := some w :: s.env.reqIn } }

/-- The BitChannel stands before the byte b of a frame, at that command's place in its render. -/
def State.presentByte (s : State) (b : Byte) : State :=
  let slot := wireSlot s.params.framing (decodeByte s.params b)
  { s with
    ctl := { s.ctl with busy := true, respValid := false, stage := .run, latCnt := 0, curTx := slot.1 }
    chan := { s.chan with
      pos := some .b1, bitIdx := 0, byteIdx := slot.2.1, frameLen := slot.2.2, waitCnt := 0
      frame := s.chan.frame.set slot.2.1.toNat b (slot.2.1.isLt) }
    env := { s.env with rstIn := [], grain := .request } }

end Sys2Proof.Machine
end

