-- ==== Sys2Proof/Machine/Step.lean ====
section
/-! DEFINITION. Machine/Step.lean: one step of the machine (log 3), and placing an instruction where the next step
fetches it. -/

namespace Sys2Proof.Machine

/-- One step.  At grain `cycle` it is one `clk_sys` cycle.  At grain `request` it is the whole of what begins in this
cycle: the request the ready block accepts, the byte the BitChannel is about to shift, or the construction after reset;
and one cycle where none of these begins, or where `rst` = 1. -/
def step (s : State) : Host.Outcome State Fault Refusal :=
  match s.env.grain with
  | .cycle => .next s.tick
  | .request =>
    if s.rstLevel then .next s.tick
    else
      match s.popRst.fetch with
      | some (i, t) => exec i t
      | none => .next (if s.atBoot then s.popRst.construct else s.tick)

/-- s with the instruction of bits w where the next step fetches it. -/
def State.withFetchWord (s : State) (nbits w : Nat) : State :=
  if nbits = 8 then s.presentByte (BitVec.ofNat 8 w) else s.presentRequest (BitVec.ofNat 32 w)

end Sys2Proof.Machine
end

