-- ==== Sys2Proof/Machine/Ports.lean ====
section
/-! DEFINITION. Machine/Ports.lean: the output ports as the surroundings see them in a cycle (spec/10_state.md R20, R22,
R35; spec/30_encoding.md R80, R83). -/

namespace Sys2Proof.Machine

/-- The 2-bit code of a response (R80). -/
def respBits : Resp → BitVec 2
  | .ok => 0
  | .nack => 1
  | .invalid => 2
  | .nodev => 3

/-- BUSY as it is read: also 1 while `rst` is asserted (R30). -/
def State.busyNow (s : State) : Bool := s.ctl.busy || s.rstLevel

/-- `req_ready` = NOT BUSY. -/
def State.reqReady (s : State) : Bool := !s.busyNow

/-- `resp_valid`: 0 in a cycle of reset (spec/70_reset_and_hazards.md R230). -/
def State.respValidPort (s : State) : Bool := s.ctl.respValid && !s.rstLevel

/-- `resp_code`. -/
def State.respCodePort (s : State) : BitVec 2 := respBits s.ctl.respCode

/-- `rb_status`: BUSY at bit 0, LAST_RESP at [2:1], 0 above (R35). -/
def State.rbStatus (s : State) : Byte := (0 : BitVec 5) ++ respBits s.ctl.lastResp ++ BitVec.ofBool s.busyNow

/-- `rb_dispn` (R35). -/
def State.rbDisp (s : State) (n : Fin 3) : BitVec 9 := glyphBits (s.ctl.disp.get n)

/-- `rb_bright` (R35). -/
def State.rbBright (s : State) : BitVec 3 := s.ctl.bright

/-- What the block drives on the DIO line: nothing in input mode (R22). -/
def State.dioDriven (s : State) : Option Bool := if s.pins.dioOe then some s.pins.dioOut else none

end Sys2Proof.Machine
end

