-- ==== Sys2Proof/Machine/Observe.lean ====
section
/-! DEFINITION. Machine/Observe.lean: what the surroundings see of a run, as functions of the events on the output ports in
order of time, and the micro-op sequence that spec/41_bit_channel.md R137 writes out. -/

namespace Sys2Proof.Machine

/-! Acknowledgment samples (R131, R133). -/

/-- The level of the k-th coming sample. -/
def State.sampleAt (s : State) (k : Nat) : Bool := s.env.dioIn.getD k (Config.freeSample (s.env.draws + k))

/-- All of the next n samples read LOW. -/
def State.acked (s : State) (n : Nat) : Bool := (List.range n).all fun k => !s.sampleAt k

/-! The sequence of R137. -/

/-- A byte's bits, bit 0 first (R127). -/
def levelsOfByte (b : Byte) : List Bool := (List.range 8).map b.getLsbD

/-- The number whose bits, least significant first, are the levels. -/
def natOfLevels : List Bool → Nat
  | [] => 0
  | b :: r => b.toNat + 2 * natOfLevels r

/-- The byte a receiver reconstructs LSB-first from eight levels (R142). -/
def byteOfLevels (l : List Bool) : Byte := BitVec.ofNat 8 (natOfLevels l)

/-- The micro-ops of one data bit, each with the bit it may put on DIO. -/
def bitScript (v : Bool) : List (MicroOp × Bool) := [(.b1, v), (.b2, v), (.b3, v)]

/-- The micro-ops of the acknowledgment. -/
def ackScript (v : Bool) : List (MicroOp × Bool) :=
  [(.a1, v), (.a2, v), (.a3, v), (.a4, v), (.a5, v), (.a6, v), (.a7, v)]

/-- The micro-ops of one byte. -/
def byteScript (b : Byte) : List (MicroOp × Bool) :=
  (levelsOfByte b).flatMap bitScript ++ ackScript (b.getLsbD 7)

/-- The micro-ops of a whole transaction, in the order of R137's pseudocode. -/
def frameScript (bytes : List Byte) : List MicroOp :=
  [.s1, .s2, .s3] ++ bytes.flatMap (fun b => (byteScript b).map Prod.fst) ++ [.p1, .p2, .p3]

/-! Readings of a list of events, oldest first. -/

/-- The micro-ops performed, each with its cycle. -/
def opTimes : List PortEvent → List (MicroOp × Nat)
  | [] => []
  | .micro m c _ _ _ :: r => (m, c) :: opTimes r
  | .response _ _ :: r => opTimes r
  | .reset _ :: r => opTimes r

/-- The cycles in which S1 was performed. -/
def startTimes (evs : List PortEvent) : List Nat := ((opTimes evs).filter fun x => x.1 == .s1).map Prod.snd

/-- The responses posted, each with its cycle. -/
def responses : List PortEvent → List (Resp × Nat)
  | [] => []
  | .response r c :: rest => (r, c) :: responses rest
  | .micro _ _ _ _ _ :: rest => responses rest
  | .reset _ :: rest => responses rest

/-- The DIO levels at the rising edges of CLK, CLK having had the level given (R142). -/
def risingLevels : Bool → List PortEvent → List Bool
  | _, [] => []
  | clk, .micro _ _ c d _ :: r => if c && !clk then d :: risingLevels c r else risingLevels c r
  | clk, .response _ _ :: r => risingLevels clk r
  | clk, .reset _ :: r => if clk then risingLevels true r else true :: risingLevels true r

/-- The whole transactions' bytes: the levels at the eight B3 rises of a byte, LSB first; `bits` and `bytes` are what the
transaction in progress has shown so far.  A cut transaction gives none. -/
def framesFrom : List Bool → List Byte → List PortEvent → List (List Byte)
  | _, _, [] => []
  | bits, bytes, .micro .b3 _ _ d _ :: r => framesFrom (bits ++ [d]) bytes r
  | bits, bytes, .micro .a7 _ _ _ _ :: r => framesFrom [] (bytes ++ [byteOfLevels bits]) r
  | _, _, .micro .s3 _ _ _ _ :: r => framesFrom [] [] r
  | _, bytes, .micro .p3 _ _ _ _ :: r => bytes :: framesFrom [] [] r
  | _, _, .reset _ :: r => framesFrom [] [] r
  | bits, bytes, _ :: r => framesFrom bits bytes r

/-- The whole transactions' bytes. -/
def framesOf (evs : List PortEvent) : List (List Byte) := framesFrom [] [] evs

/-- The micro-ops that may change what the block drives on DIO while CLK is high: S3, P3, and the acknowledgment's
release and re-drive (spec/70_reset_and_hazards.md R242). -/
def mayMoveDio : MicroOp → Bool
  | .s3 | .p3 | .a4 | .a5 | .a6 => true
  | .s1 | .s2 | .b1 | .b2 | .b3 | .a1 | .a2 | .a3 | .a7 | .p1 | .p2 => false

/-- No other micro-op changes DIO while CLK stays high, the pins having been p. -/
def dioSteady : Pins → List PortEvent → Bool
  | _, [] => true
  | p, .micro m _ c d o :: r =>
    (mayMoveDio m || !p.clkOut || !c || (d == p.dioOut && o == p.dioOe)) && dioSteady ⟨c, d, o⟩ r
  | p, .response _ _ :: r => dioSteady p r
  | _, .reset _ :: r => dioSteady Pins.idle r

/-- Every micro-op is followed no earlier than its minimum wait (spec/41_bit_channel.md R122,
spec/70_reset_and_hazards.md R235). -/
def waitsHonoured (q : Nat) (evs : List PortEvent) : Prop :=
  List.Pairwise (fun a b => a.2 + 1 + waitOf a.1 * q ≤ b.2) (opTimes evs)

/-- The events of a run from s to t, oldest first, are evs. -/
def Emits (s t : State) (evs : List PortEvent) : Prop := t.env.trace = evs.reverse ++ s.env.trace

end Sys2Proof.Machine
end

