-- ==== Sys2Proof/Safety.lean ====
section
/-! DEFINITION. Safety.lean: what a quiet block is, the invariant of every run, and a safe run, in the terms the claims
use. -/

namespace Sys2Proof.Machine

/-- A block between requests: not busy, IDLE, no wait or response pending, the pins at the idle levels
(spec/41_bit_channel.md R138, spec/60_exceptions.md R214). -/
structure State.Quiet (s : State) : Prop where
  busy : s.ctl.busy = false
  respValid : s.ctl.respValid = false
  latency : s.ctl.latCnt = 0
  pos : s.chan.pos = none
  wait : s.chan.waitCnt = 0
  pins : s.pins = Pins.idle

/-- The levels the pins hold while m is the micro-op performed next (spec/41_bit_channel.md R124 to R136): the block drives
DIO but between A4 and A6 (R130), and DIO has the data bit before B3. -/
def pinsBefore (m : MicroOp) (bit : Bool) (p : Pins) : Prop :=
  match m with
  | .s1 | .s2 | .s3 => p = Pins.idle
  | .b1 => p.dioOe = true
  | .b2 => p.clkOut = false ∧ p.dioOe = true
  | .b3 => p.clkOut = false ∧ p.dioOut = bit ∧ p.dioOe = true
  | .a1 => p.clkOut = true ∧ p.dioOe = true
  | .a2 => p.clkOut = false ∧ p.dioOe = true
  | .a3 => p.clkOut = false ∧ p.dioOut = true ∧ p.dioOe = true
  | .a4 => p = Pins.idle
  | .a5 | .a6 => p.clkOut = true ∧ p.dioOut = true ∧ p.dioOe = false
  | .a7 => p.clkOut = true ∧ p.dioOut = false ∧ p.dioOe = true
  | .p1 | .p2 => p.clkOut = false ∧ p.dioOut = false ∧ p.dioOe = true
  | .p3 => p.clkOut = true ∧ p.dioOut = false ∧ p.dioOe = true

/-- The invariant every step keeps. -/
structure State.Inv (s : State) : Prop where
  /-- A block that is not busy is quiet. -/
  ready : s.ctl.busy = false → s.Quiet
  /-- The pins hold the idle levels in IDLE (spec/41_bit_channel.md R138). -/
  idle : s.chan.pos = none → s.pins = Pins.idle
  /-- Before a micro-op the pins hold what the sequence has left there. -/
  levels : ∀ m, s.chan.pos = some m → pinsBefore m s.curBit s.pins
  /-- Only a transaction being sent has a position: before its S1 is due the phase is IDLE (spec/10_state.md R38). -/
  quietBus : s.ctl.stage ≠ .run → s.chan.pos = none
  /-- Only a transaction being sent, or awaited, has a wait. -/
  noWait : s.ctl.stage = .boot ∨ s.ctl.stage = .resp → s.chan.waitCnt = 0
  /-- An S1 that is awaited is not due yet (spec/41_bit_channel.md R146). -/
  issuing : s.ctl.stage = .issue → 0 < s.ctl.latCnt ∨ 0 < s.chan.waitCnt
  /-- A transaction being sent has no latency left. -/
  sending : s.ctl.stage = .run → s.ctl.latCnt = 0
  /-- A response is posted in its own stage, after its latency (spec/42_display_controller.md R161). -/
  posting : s.ctl.respValid = true → s.ctl.busy = true ∧ s.ctl.stage = .resp ∧ s.ctl.latCnt = 0
  /-- FRAME_LEN is 1..4 (spec/10_state.md R25). -/
  frameLen : 1 ≤ s.chan.frameLen.toNat ∧ s.chan.frameLen.toNat ≤ 4
  /-- The byte being sent is one of the frame's (spec/10_state.md R24, R25). -/
  byteInFrame : ∀ m, s.chan.pos = some m → phaseOf m = .bit ∨ phaseOf m = .ack →
    s.chan.byteIdx.toNat < s.chan.frameLen.toNat
  /-- WAITCNT never exceeds the wait it was loaded with (spec/10_state.md R27). -/
  waitBound : s.chan.waitCnt ≤ max 2 s.params.gapQ * s.params.qCycles

/-! What the claims about requests say. -/

/-- The index of a render's last transaction. -/
def lastTx (p : Params) : Fin 3 :=
  match p.framing with
  | .single => 0
  | .perCommand => 2

/-- The request registers once the request `op`, `arg` has been answered r: the operands latched, the response posted, the
block ready; every other register as it was. -/
def Control.answered (c : Control) (op : BitVec 4) (arg : BitVec 28) (r : Resp) : Control :=
  { c with
    curOp := op, curArg := arg, lastResp := r, respCode := r, busy := false, respValid := false }

/-- From s to t a request was answered r and nothing else happened: no pin, no BitChannel register, no sample; one
response, RESP_LAT cycles after acceptance.  The sequencer's stage and latency count, the model's own (log 7), are left
aside. -/
def OnlyAnswered (s t : State) (c : Control) (op : BitVec 4) (arg : BitVec 28) (r : Resp) : Prop :=
  t = { s with
    ctl := { c.answered op arg r with stage := t.ctl.stage, latCnt := t.ctl.latCnt }
    env := { s.env with
      trace := .response r (s.env.cycles + s.params.respLat) :: s.env.trace
      cycles := s.env.cycles + s.params.respLat + 1 } }

/-- From s to t a request sent the transactions `frames`, whole and in order, the S1 of each in its cycle (ISSUE_LAT after
acceptance, GAP_Q * Q_CYCLES after the P3 wait before it: spec/41_bit_channel.md R146), drew one sample for each of their bytes, left
the bus idle and the request registers c, took the cycles of spec/70_reset_and_hazards.md R244, and posted one response
last; configuration and inputs are otherwise as they were.  The sequencer's stage and latency count, the model's own (log
7), are left aside. -/
def Rendered (s t : State) (c : Control) (frames : List (List Byte)) : Prop :=
  t.cfg = s.cfg ∧ t.pins = Pins.idle ∧ t.chan.pos = none ∧ t.chan.waitCnt = 0 ∧
  t.ctl = { c with stage := t.ctl.stage, latCnt := t.ctl.latCnt } ∧
  ∃ evs, framesOf evs = frames ∧
    startTimes evs = frameStarts s.params (s.env.cycles + s.params.issueLat) (frames.map List.length) ∧
    t.env = { s.env with
      dioIn := s.env.dioIn.drop frames.flatten.length
      draws := s.env.draws + frames.flatten.length
      trace := .response c.lastResp (s.env.cycles + requestCycles s.params (frames.map List.length)) ::
        (evs.reverse ++ s.env.trace)
      cycles := s.env.cycles + requestCycles s.params (frames.map List.length) + 1 }

/-- What is on its way to the bus is what the registers hold (spec/42_display_controller.md R172, spec/20_memory.md R59):
while a transaction is awaited or being sent, its S1 among the rest, DISP at the position being rendered already holds the
glyph the request shows there, and FRAME holds the transaction of that glyph's render. -/
structure State.Showing (s : State) : Prop where
  /-- The construction is INIT's (spec/10_state.md R38, spec/70_reset_and_hazards.md R231). -/
  boot : s.ctl.stage = .boot → s.ctl.curOp = 1
  /-- SETINT's digits are its operand's (spec/42_display_controller.md R170). -/
  digits : s.ctl.stage = .issue ∨ s.ctl.stage = .run → s.ctl.curOp = 6 → s.ctl.digits = digitsOf s.ctl.curArg
  /-- The glyph shown, and its bytes. -/
  shown : s.ctl.stage = .issue ∨ s.ctl.stage = .run → ∃ p, s.renderPos = some p ∧
    s.requestGlyph p = some (s.ctl.disp.get p) ∧
    s.chan.frame.toList.take s.chan.frameLen.toNat =
      (renderFrames s.params s.ctl.bright p (segmentsOf s.params (s.ctl.disp.get p))).getD s.ctl.curTx.val []

/-- The state holds the reset values of spec/10_state.md R38, those it leaves unspecified aside. -/
structure State.AtReset (s : State) : Prop where
  pins : s.pins = { clkOut := true, dioOut := true, dioOe := true }
  phase : s.phase = .idle
  ustep : s.ustep = 0
  bitIdx : s.chan.bitIdx = 0
  byteIdx : s.chan.byteIdx = 0
  waitCnt : s.chan.waitCnt = 0
  bright : s.ctl.bright = 2
  disp : s.ctl.disp = #v[.index s.params.blankIndex, .index s.params.blankIndex, .index s.params.blankIndex]
  busy : s.ctl.busy = true
  lastResp : s.ctl.lastResp = .ok
  curOp : s.ctl.curOp = 1
  curArg : s.ctl.curArg = 0
  curP : s.ctl.curP = 0
  opAck : s.ctl.opAck = true
  respValid : s.ctl.respValid = false
  respCode : s.ctl.respCode = .ok

/-- Two outcomes that differ in CUR_ARG alone. -/
def SameButArg (o o' : Host.Outcome State Fault Refusal) : Prop :=
  ∃ t a, o = .next t ∧ o' = .next { t with ctl := { t.ctl with curArg := a } }

/-- A step that goes on: the machine neither faults nor refuses. -/
def Goes (s : State) : Prop := ∃ t, step s = .next t

/-- A safe run: n steps that go on. -/
def SafeRun : Nat → State → Prop
  | 0, _ => True
  | n + 1, s => ∃ t, step s = .next t ∧ SafeRun n t

end Sys2Proof.Machine
end

