-- ==== Sys2Proof/Certificates/Slice0/Obligations.lean ====
section
/-! DEFINITION. Certificates/Slice0/Obligations.lean: the statements for the provers. -/

open Sys2Proof Sys2Proof.Machine

/-! Encoding. -/

/-- R71, R72 to R77, R79: every request term has a word, and decoding the word gives the term back, with every operand and
every ignored bit at every value. -/
def Obligations.DecodeInvertsEncodeRequest : Prop :=
  ∀ i : Instr, i.isRequest = true → ∃ w, encodeRequest i = some w ∧ decodeRequest w = i

/-- R86: decoding is total, and a word is the word of the one request it decodes to. -/
def Obligations.EveryWordIsOneRequest : Prop :=
  ∀ w : ReqWord, (decodeRequest w).isRequest = true ∧ encodeRequest (decodeRequest w) = some w ∧
    ∀ i, encodeRequest i = some w → i = decodeRequest w

/-- R82: where the command values do not overlap (as the defaults do not), a wire byte decodes, in its place, to the command
it was encoded from. -/
def Obligations.WireBytesDecodeInPlace : Prop :=
  ∀ (p : Params) (i : Instr) (b : Byte), p.commandsDistinct = true → i.wellFormed = true → encodeWire p i = some b →
    (∀ v, i = .data v → decodeWire p .afterAddr b = .ok i) ∧
    ((∀ v, i ≠ .data v) → decodeWire p .command b = .ok i)

/-- Every word of spec/95_test_vectors.md V-EN1, V-EN2 and V-EN3 and every default command byte of R82 decode to what they
stand for; that the words of V-EN3 are answered INVALID is IllegalOpsOnlyAnswer.  The command bytes' values are general
knowledge (log 1), and a byte that is no command's value, 0x07 here, reads as DATA where its place is not known: the model's
choice (log 8). -/
def Obligations.SpecWordsDecode : Prop :=
  decodeTableWord 32 0x10000000 = some (.init 0) ∧
  decodeTableWord 32 0x20000005 = some (.setbrt 0 5) ∧
  decodeTableWord 32 0x30000000 = some (.clear 0) ∧
  decodeTableWord 32 0x40000109 = some (.setdig 0 1 9) ∧
  decodeTableWord 32 0x500002FF = some (.setpat 0 2 0xFF) ∧
  decodeTableWord 32 0x6000002A = some (.setint 42) ∧
  decodeTableWord 32 0x6FFFFFFF = some (.setint (BitVec.ofInt 28 (-1))) ∧
  decodeTableWord 32 0x68000000 = some (.setint (BitVec.ofInt 28 (-134217728))) ∧
  decodeTableWord 32 0x67FFFFFF = some (.setint (BitVec.ofInt 28 134217727)) ∧
  decodeTableWord 32 0x1ABCDEF0 = some (.init 0xABCDEF0) ∧
  decodeTableWord 32 0x2FFFFF03 = some (.setbrt 0xFFFFF 3) ∧
  decodeTableWord 32 0x4ABC0207 = some (.setdig 0xABC 2 7) ∧
  decodeTableWord 32 0x00000000 = some (.illegalZero 0) ∧
  decodeTableWord 32 0x70000000 = some (.illegalSeven 0) ∧
  decodeTableWord 32 0x8000002A = some (.illegalHigh 0 0x2A) ∧
  decodeTableWord 32 0xF0000000 = some (.illegalHigh 7 0) ∧
  decodeTableWord 8 0x44 = some .fixedAddr ∧
  decodeTableWord 8 0xC0 = some (.addr 0) ∧ decodeTableWord 8 0xC1 = some (.addr 1) ∧
  decodeTableWord 8 0xC2 = some (.addr 2) ∧
  decodeTableWord 8 0x88 = some (.dispOn 0) ∧ decodeTableWord 8 0x89 = some (.dispOn 1) ∧
  decodeTableWord 8 0x8A = some (.dispOn 2) ∧ decodeTableWord 8 0x8B = some (.dispOn 3) ∧
  decodeTableWord 8 0x8C = some (.dispOn 4) ∧ decodeTableWord 8 0x8D = some (.dispOn 5) ∧
  decodeTableWord 8 0x8E = some (.dispOn 6) ∧ decodeTableWord 8 0x8F = some (.dispOn 7) ∧
  decodeTableWord 8 0x80 = some .dispOff ∧
  decodeTableWord 8 0x07 = some (.data 7)

/-- R71: the OP field selects the request, and its legal values are 1 to 6. -/
def Obligations.OpFieldSelectsRequest : Prop :=
  ∀ w : ReqWord,
    ((∃ g, decodeRequest w = .init g) ↔ w.extractLsb' 28 4 = 1) ∧
    ((∃ g l, decodeRequest w = .setbrt g l) ↔ w.extractLsb' 28 4 = 2) ∧
    ((∃ g, decodeRequest w = .clear g) ↔ w.extractLsb' 28 4 = 3) ∧
    ((∃ g a b, decodeRequest w = .setdig g a b) ↔ w.extractLsb' 28 4 = 4) ∧
    ((∃ g a b, decodeRequest w = .setpat g a b) ↔ w.extractLsb' 28 4 = 5) ∧
    ((∃ v, decodeRequest w = .setint v) ↔ w.extractLsb' 28 4 = 6) ∧
    ((∃ a, decodeRequest w = .illegalZero a ∨ decodeRequest w = .illegalSeven a ∨
        ∃ k, decodeRequest w = .illegalHigh k a) ↔
      w.extractLsb' 28 4 = 0 ∨ 7 ≤ (w.extractLsb' 28 4).toNat)

/-- R78: the bits the request rules mark as ignored change nothing but the latched CUR_ARG. -/
def Obligations.IgnoredBitsChangeNothing : Prop :=
  ∀ s : State,
    (∀ g g', SameButArg (exec (.init g) s) (exec (.init g') s)) ∧
    (∀ g g' l, SameButArg (exec (.setbrt g l) s) (exec (.setbrt g' l) s)) ∧
    (∀ g g', SameButArg (exec (.clear g) s) (exec (.clear g') s)) ∧
    (∀ g g' a b, SameButArg (exec (.setdig g a b) s) (exec (.setdig g' a b) s)) ∧
    (∀ g g' a b, SameButArg (exec (.setpat g a b) s) (exec (.setpat g' a b) s)) ∧
    (∀ a a', SameButArg (exec (.illegalZero a) s) (exec (.illegalZero a') s)) ∧
    (∀ a a', SameButArg (exec (.illegalSeven a) s) (exec (.illegalSeven a') s)) ∧
    (∀ k a a', SameButArg (exec (.illegalHigh k a) s) (exec (.illegalHigh k a') s))

/-- R84, R85: the assembler's words, for operands that have been read (log 17); an operand outside its field's width is refused, and BLANK is SETDIG with
BLANK_INDEX. -/
def Obligations.AssemblerWords : Prop :=
  ∀ (p : Params) (a b : Nat) (v : Int),
    assembleWord p .init = some 0x10000000 ∧ assembleWord p .clear = some 0x30000000 ∧
    assembleWord p (.setbrt a) = (if a ≤ 255 then some (0x20000000 ||| BitVec.ofNat 32 a) else none) ∧
    assembleWord p (.setdig a b) =
      (if a ≤ 255 ∧ b ≤ 255 then some (0x40000000 ||| BitVec.ofNat 32 a <<< 8 ||| BitVec.ofNat 32 b) else none) ∧
    assembleWord p (.setpat a b) =
      (if a ≤ 255 ∧ b ≤ 255 then some (0x50000000 ||| BitVec.ofNat 32 a <<< 8 ||| BitVec.ofNat 32 b) else none) ∧
    assembleWord p (.setint v) =
      (if -(2 ^ 27) ≤ v ∧ v ≤ 2 ^ 27 - 1 then some (0x60000000 ||| BitVec.ofInt 32 (v % 2 ^ 28)) else none) ∧
    assembleWord p (.blank a) = assembleWord p (.setdig a p.blankIndex.val)

/-! SegmentEncoder and configuration. -/

/-- R101, R9, R102, R107: a raw pattern is itself, an index is its table entry, Blank is 0x00 and digit 7 is 0x07, in every
configuration; the source's glyphs are the references of R107's table. -/
def Obligations.EncoderPatterns : Prop :=
  ∀ c : Config, (∀ v, segmentsOf c.val (.raw v) = v) ∧ (∀ i : Fin 23, segmentsOf c.val (.index i) = c.val.segTable.get i) ∧
    segmentsOf c.val (glyphRef c.val .blank) = 0x00 ∧ segmentsOf c.val (glyphRef c.val (.digit 7)) = 0x07 ∧
    (∀ d : Fin 10, glyphRef c.val (.digit d) = .index ⟨d.val, by omega⟩) ∧
    glyphRef c.val .blank = .index c.val.blankIndex ∧ glyphRef c.val .dash = .index c.val.dashIndex ∧
    glyphRef c.val .degree = .index c.val.degreeIndex ∧ ∀ v, glyphRef c.val (.custom v) = .raw v

/-- R83, R105: the 9 bits of a glyph reference have K at bit 8 and V below it and give it back; K = 0 with V off the table
is refused. -/
def Obligations.GlyphReferenceBits : Prop :=
  (∀ g, glyphOfBits (glyphBits g) = some g) ∧
  (∀ i : Fin 23, (glyphBits (.index i)).getLsbD 8 = false ∧ ((glyphBits (.index i)).extractLsb' 0 8).toNat = i.val) ∧
  (∀ v, (glyphBits (.raw v)).getLsbD 8 = true ∧ (glyphBits (.raw v)).extractLsb' 0 8 = v) ∧
  (∀ b : BitVec 9, b.getLsbD 8 = false → 23 ≤ (b.extractLsb' 0 8).toNat → glyphOfBits b = none)

/-- R9: a configuration that violates a constraint is refused. -/
def Obligations.BadConfigurationsRefused : Prop :=
  ∀ p : Params,
    (p.cmdDispOnBase.extractLsb' 0 3 ≠ 0 ∨ p.cmdAddrBase.extractLsb' 0 2 ≠ 0 ∨ p.segTable.get p.blankIndex ≠ 0x00 ∨
      p.nDigits ≠ 3) → Config.ofParams p = none

/-- R164: no carry: the two computed bytes are the base with the operand in its low bits. -/
def Obligations.ComputedBytesNeverCarry : Prop :=
  ∀ (c : Config) (pos : Fin 3) (b : BitVec 3),
    addrByte c.val pos = c.val.cmdAddrBase ||| BitVec.ofNat 8 pos.val ∧
    dispOnByte c.val b = c.val.cmdDispOnBase ||| b.setWidth 8

/-- R171: SETINT's clamp and decomposition. -/
def Obligations.SetintArithmetic : Prop :=
  ∀ v : BitVec 28,
    (999 < v.toInt → clampValue v = 999) ∧ (v.toInt < 0 → clampValue v = 0) ∧
    (0 ≤ v.toInt → v.toInt ≤ 999 → (clampValue v : Int) = v.toInt) ∧
    (digitsOf v)[0].toNat = clampValue v / 100 % 10 ∧ (digitsOf v)[1].toNat = clampValue v / 10 % 10 ∧
    (digitsOf v)[2].toNat = clampValue v % 10 ∧
    (digitsOf v)[0].toNat ≤ 9 ∧ (digitsOf v)[1].toNat ≤ 9 ∧ (digitsOf v)[2].toNat ≤ 9 ∧
    clampValue v = 100 * (digitsOf v)[0].toNat + 10 * (digitsOf v)[1].toNat + (digitsOf v)[2].toNat

/-! BitChannel. -/

/-- R123, R24: PHASE and USTEP name the micro-op performed next, with the codes of R24 and the table's columns, and performing
it writes the pins and loads the wait as the table says.  That USTEP is 0 in every IDLE state, not only after reset, is the
model's choice (log 7). -/
def Obligations.MicroOpTable : Prop :=
  (phaseCode .idle = 0 ∧ phaseCode .start = 1 ∧ phaseCode .bit = 2 ∧ phaseCode .ack = 3 ∧ phaseCode .stop = 4) ∧
  (∀ s : State, s.chan.pos = none → s.phase = .idle ∧ s.ustep = 0) ∧
  (∀ (s : State) (m : MicroOp), s.chan.pos = some m → (s.phase, s.ustep) = (match m with
    | .s1 => (.start, 0) | .s2 => (.start, 1) | .s3 => (.start, 2)
    | .b1 => (.bit, 0) | .b2 => (.bit, 1) | .b3 => (.bit, 2)
    | .a1 => (.ack, 0) | .a2 => (.ack, 1) | .a3 => (.ack, 2) | .a4 => (.ack, 3) | .a5 => (.ack, 4) | .a6 => (.ack, 5)
    | .a7 => (.ack, 6)
    | .p1 => (.stop, 0) | .p2 => (.stop, 1) | .p3 => (.stop, 2))) ∧
  (∀ m m', phaseOf m = phaseOf m' → ustepOf m = ustepOf m' → m = m') ∧
  ∀ (s : State) (m : MicroOp),
    (s.perform m).pins = (match m with
      | .s1 | .a2 | .p3 => { s.pins with dioOut := true }
      | .s3 | .p1 => { s.pins with dioOut := false }
      | .b2 => { s.pins with dioOut := s.curBit }
      | .s2 | .b3 | .a3 | .p2 => { s.pins with clkOut := true }
      | .b1 | .a1 | .a7 => { s.pins with clkOut := false }
      | .a4 => { s.pins with dioOe := false }
      | .a5 => s.pins
      | .a6 => { s.pins with dioOut := false, dioOe := true }) ∧
    (s.perform m).chan.waitCnt = (match m with
      | .s1 | .b3 | .p1 => 2 * s.params.qCycles
      | .a1 | .a4 | .a5 | .a7 => 0
      | .s2 | .s3 | .b1 | .b2 | .a2 | .a3 | .a6 | .p2 | .p3 => 1 * s.params.qCycles)

/-- R123, last column; R125, R127, R135: where the sequencer goes after a micro-op.  That the position moves when the
micro-op is performed, so that P3 leaves the sequencer in IDLE already during its wait, is the model's choice (log 7). -/
def Obligations.MicroOpSuccessors : Prop :=
  ∀ s : State,
    (s.perform .s1).chan.pos = some .s2 ∧ (s.perform .s2).chan.pos = some .s3 ∧
    ((s.perform .s3).chan.pos = some .b1 ∧ (s.perform .s3).chan.byteIdx = 0 ∧ (s.perform .s3).chan.bitIdx = 0) ∧
    (s.perform .b1).chan.pos = some .b2 ∧ (s.perform .b2).chan.pos = some .b3 ∧
    (s.chan.bitIdx.toNat < 7 →
      (s.perform .b3).chan.pos = some .b1 ∧ (s.perform .b3).chan.bitIdx.toNat = s.chan.bitIdx.toNat + 1) ∧
    (s.chan.bitIdx = 7 → (s.perform .b3).chan.pos = some .a1) ∧
    (s.perform .a1).chan.pos = some .a2 ∧ (s.perform .a2).chan.pos = some .a3 ∧ (s.perform .a3).chan.pos = some .a4 ∧
    (s.perform .a4).chan.pos = some .a5 ∧ (s.perform .a5).chan.pos = some .a6 ∧ (s.perform .a6).chan.pos = some .a7 ∧
    (s.chan.byteIdx.toNat < s.chan.frameLen.toNat - 1 → s.chan.byteIdx ≠ 3 →
      (s.perform .a7).chan.pos = some .b1 ∧ (s.perform .a7).chan.bitIdx = 0 ∧
        (s.perform .a7).chan.byteIdx.toNat = s.chan.byteIdx.toNat + 1) ∧
    (¬ s.chan.byteIdx.toNat < s.chan.frameLen.toNat - 1 → (s.perform .a7).chan.pos = some .p1) ∧
    (s.perform .p1).chan.pos = some .p2 ∧ (s.perform .p2).chan.pos = some .p3 ∧ (s.perform .p3).chan.pos = none

/-- R132: A5 folds its sample into ACK_ACC, LOW acknowledging; no other micro-op writes ACK_ACC or draws a sample; `send` sets
ACK_ACC to 1 before S1. -/
def Obligations.OnlyA5WritesAckAcc : Prop :=
  ∀ s : State,
    (s.perform .a5).chan.ackAcc = (s.chan.ackAcc && !s.sampleAt 0) ∧ (s.perform .a5).env.draws = s.env.draws + 1 ∧
    (∀ m, m ≠ .a5 → (s.perform m).chan.ackAcc = s.chan.ackAcc ∧ (s.perform m).env.draws = s.env.draws ∧
      (s.perform m).env.dioIn = s.env.dioIn) ∧
    ∀ bytes : List Byte, (s.loadFrame bytes).chan.ackAcc = true ∧
      s.send bytes = (State.sendBytes bytes.length ((s.loadFrame bytes).goTo .s1).sendStart).sendStop

/-- R122: clocked, a micro-op with wait k is followed by 1 + k * Q_CYCLES cycles in which nothing more is performed: the
count of the wait runs out, and the ports show no further event.  The sequencer's stage is the model's own (log 7). -/
def Obligations.MicroOpTakesItsWait : Prop :=
  ∀ (s : State) (m : MicroOp), s.ctl.busy = true → s.ctl.respValid = false → s.ctl.stage = .run →
    s.chan.waitCnt = 0 → s.chan.pos = some m → s.env.rstIn = [] →
    (m ≠ .p3 → State.tick^[1 + waitOf m * s.params.qCycles] s = s.op m) ∧
    ∀ j, 1 ≤ j → j ≤ 1 + waitOf m * s.params.qCycles →
      (State.tick^[j] s).env.trace = (s.perform m).env.trace ∧ (State.tick^[j] s).pins = (s.perform m).pins

/-- R137, R123: `send` performs the micro-ops of R137 in order, one after another, for any bytes and any samples, and
writes FRAME and FRAME_LEN. -/
def Obligations.SendPerformsItsMicroOps : Prop :=
  ∀ (s : State) (bytes : List Byte), 1 ≤ bytes.length → bytes.length ≤ 4 →
    (∃ evs, Emits s (s.send bytes) evs ∧ (opTimes evs).map Prod.fst = frameScript bytes ∧ responses evs = []) ∧
    (s.send bytes).chan.frame.toList.take bytes.length = bytes ∧
    (s.send bytes).chan.frameLen.toNat = bytes.length ∧
    (s.send bytes).ctl = s.ctl ∧ (s.send bytes).cfg = s.cfg

/-- R26: a transaction's result is the AND of its bytes' acknowledgments, one sample for each byte. -/
def Obligations.SendResultIsAndOfSamples : Prop :=
  ∀ (s : State) (bytes : List Byte), 1 ≤ bytes.length → bytes.length ≤ 4 →
    (s.send bytes).chan.ackAcc = (List.range bytes.length).all (fun k => !s.sampleAt k) ∧
    (s.send bytes).env.draws = s.env.draws + bytes.length ∧
    (s.send bytes).env.dioIn = s.env.dioIn.drop bytes.length

/-- R138: after a transaction the phase is IDLE and the pins hold the idle levels. -/
def Obligations.SendEndsIdle : Prop :=
  ∀ (s : State) (bytes : List Byte), 1 ≤ bytes.length → bytes.length ≤ 4 →
    (s.send bytes).phase = .idle ∧ (s.send bytes).pins = { clkOut := true, dioOut := true, dioOe := true }

/-- R141: the micro-ops and cycles of a frame of n bytes. -/
def Obligations.FrameCounts : Prop :=
  ∀ (s : State) (bytes : List Byte), 1 ≤ bytes.length → bytes.length ≤ 4 →
    (s.send bytes).env.cycles =
      s.env.cycles + ((6 + 31 * bytes.length) + (8 + 35 * bytes.length) * s.params.qCycles) ∧
    ∃ evs, Emits s (s.send bytes) evs ∧ (opTimes evs).length = 6 + 31 * bytes.length ∧
      ((opTimes evs).map fun x => waitOf x.1).sum = 8 + 35 * bytes.length

/-- R139: a NACK does not shorten a transaction: whatever the samples are, the ports show the same events in the same
cycles. -/
def Obligations.SamplesDoNotShapeTheFrame : Prop :=
  ∀ (s : State) (bytes : List Byte) (d : List Bool) (n : Nat), 1 ≤ bytes.length → bytes.length ≤ 4 →
    ({ s with env := { s.env with dioIn := d, draws := n } }.send bytes).env.trace = (s.send bytes).env.trace ∧
    ({ s with env := { s.env with dioIn := d, draws := n } }.send bytes).pins = (s.send bytes).pins

/-- R142, R52: from the idle levels, the rising edges of CLK are the eight data bits of each byte, LSB first, the ninth clock
with DIO driven to 1, and P2's; a receiver that reads eight levels LSB-first gets the byte back. -/
def Obligations.RisingEdgesCarryTheBytes : Prop :=
  (∀ b : Byte, byteOfLevels (levelsOfByte b) = b) ∧
  ∀ (s : State) (bytes : List Byte), s.pins = Pins.idle → 1 ≤ bytes.length → bytes.length ≤ 4 →
    ∃ evs, Emits s (s.send bytes) evs ∧
      risingLevels true evs = bytes.flatMap (fun b => levelsOfByte b ++ [true]) ++ [false]

/-- R242: within a frame, DIO changes while CLK is high only at S3, at P3 and at the acknowledgment's release and
re-drive. -/
def Obligations.DioMovesOnlyWhereAllowed : Prop :=
  ∀ (s : State) (bytes : List Byte), s.pins = Pins.idle → 1 ≤ bytes.length → bytes.length ≤ 4 →
    ∃ evs, Emits s (s.send bytes) evs ∧ dioSteady Pins.idle evs = true

/-- R235: in every request, each micro-op is followed no earlier than its minimum wait. -/
def Obligations.RequestsHonourEveryWait : Prop :=
  ∀ (i : Instr) (s t : State), i.isRequest = true → exec i s = .next t →
    ∃ evs, Emits s t evs ∧ waitsHonoured s.params.qCycles evs

/-! DisplayController. -/

/-- R163, R176 to R179: a render's bytes, over its transactions, are FIXED_ADDR, ADDR(p), DATA(v) and DISP_ON(b) in that
order, in one transaction of four bytes or in three of one, two and one. -/
def Obligations.RenderBytesInOrder : Prop :=
  ∀ (p : Params) (b : BitVec 3) (pos : Fin 3) (pat : Byte),
    (renderFrames p b pos pat).flatten =
      [p.cmdFixedAddr, p.cmdAddrBase + BitVec.ofNat 8 pos.val, pat, p.cmdDispOnBase + b.setWidth 8] ∧
    (p.framing = .single → (renderFrames p b pos pat).map List.length = [4]) ∧
    (p.framing = .perCommand → (renderFrames p b pos pat).map List.length = [1, 2, 1]) ∧
    (p.commandsDistinct = true →
      decodeWire p .command p.cmdFixedAddr = .ok .fixedAddr ∧
      decodeWire p .command (p.cmdAddrBase + BitVec.ofNat 8 pos.val) = .ok (.addr (BitVec.ofNat 2 pos.val)) ∧
      decodeWire p .afterAddr pat = .ok (.data pat) ∧
      decodeWire p .command (p.cmdDispOnBase + b.setWidth 8) = .ok (.dispOn b))

/-- R165: INIT: output mode, BRIGHT 2, every position blank, three renders, OK or NODEV. -/
def Obligations.InitEffect : Prop :=
  ∀ (s : State) (ign : BitVec 28), ∃ t, exec (.init ign) s = .next t ∧
    Rendered s t
      { s.ctl.answered 1 ign (if s.acked 12 then .ok else .nodev) with
        bright := 2, disp := #v[.index s.params.blankIndex, .index s.params.blankIndex, .index s.params.blankIndex]
        curP := 2, curTx := lastTx s.params, opAck := s.acked 12 }
      (renderFrames s.params 2 0 0x00 ++ renderFrames s.params 2 1 0x00 ++ renderFrames s.params 2 2 0x00)

/-- R166: SETBRT: a level in 0..7 is stored, with no bus activity; a level above 7 is INVALID. -/
def Obligations.SetbrtEffect : Prop :=
  ∀ (s : State) (ign : BitVec 20) (level : Byte),
    (level.toNat ≤ 7 → ∃ t, exec (.setbrt ign level) s = .next t ∧
      OnlyAnswered s t { s.ctl with bright := BitVec.ofNat 3 level.toNat } 2 (ign ++ level) .ok) ∧
    (7 < level.toNat → ∃ t, exec (.setbrt ign level) s = .next t ∧
      OnlyAnswered s t s.ctl 2 (ign ++ level) .invalid)

/-- R167: CLEAR: every position blank, three renders with the current brightness, none skipped after a NACK, OK or NACK. -/
def Obligations.ClearEffect : Prop :=
  ∀ (s : State) (ign : BitVec 28), ∃ t, exec (.clear ign) s = .next t ∧
    Rendered s t
      { s.ctl.answered 3 ign (if s.acked 12 then .ok else .nack) with
        disp := #v[.index s.params.blankIndex, .index s.params.blankIndex, .index s.params.blankIndex]
        curP := 2, curTx := lastTx s.params, opAck := s.acked 12 }
      (renderFrames s.params s.ctl.bright 0 0x00 ++ renderFrames s.params s.ctl.bright 1 0x00 ++
        renderFrames s.params s.ctl.bright 2 0x00)

/-- R168: SETDIG: a legal position and index write DISP[p], send one render and answer OK or NACK; else INVALID. -/
def Obligations.SetdigEffect : Prop :=
  ∀ (s : State) (ign : BitVec 12) (pos glyph : Byte),
    (∀ (hp : pos.toNat ≤ 2) (hg : glyph.toNat ≤ 22), ∃ t, exec (.setdig ign pos glyph) s = .next t ∧
      Rendered s t
        { s.ctl.answered 4 (ign ++ pos ++ glyph) (if s.acked 4 then .ok else .nack) with
          disp := s.ctl.disp.set pos.toNat (.index ⟨glyph.toNat, by omega⟩)
          curTx := lastTx s.params, opAck := s.acked 4 }
        (renderFrames s.params s.ctl.bright ⟨pos.toNat, by omega⟩ (s.params.segTable.get ⟨glyph.toNat, by omega⟩))) ∧
    (2 < pos.toNat ∨ 22 < glyph.toNat → ∃ t, exec (.setdig ign pos glyph) s = .next t ∧
      OnlyAnswered s t s.ctl 4 (ign ++ pos ++ glyph) .invalid)

/-- R169: SETPAT: a legal position writes DISP[p] with the raw pattern, sends one render and answers OK or NACK; else
INVALID. -/
def Obligations.SetpatEffect : Prop :=
  ∀ (s : State) (ign : BitVec 12) (pos pat : Byte),
    (∀ (hp : pos.toNat ≤ 2), ∃ t, exec (.setpat ign pos pat) s = .next t ∧
      Rendered s t
        { s.ctl.answered 5 (ign ++ pos ++ pat) (if s.acked 4 then .ok else .nack) with
          disp := s.ctl.disp.set pos.toNat (.raw pat)
          curTx := lastTx s.params, opAck := s.acked 4 }
        (renderFrames s.params s.ctl.bright ⟨pos.toNat, by omega⟩ pat)) ∧
    (2 < pos.toNat → ∃ t, exec (.setpat ign pos pat) s = .next t ∧
      OnlyAnswered s t s.ctl 5 (ign ++ pos ++ pat) .invalid)

/-- R170: SETINT: the three digits of the operand clamped to 0..999 are written to DIGITS, as table indices to DISP, and
rendered left to right with the table's patterns; OK or NACK, never INVALID. -/
def Obligations.SetintEffect : Prop :=
  ∀ (s : State) (v : BitVec 28),
    (∀ c : Nat, c = (min (max v.toInt 0) 999).toNat →
      digitsOf v = #v[BitVec.ofNat 4 (c / 100 % 10), BitVec.ofNat 4 (c / 10 % 10), BitVec.ofNat 4 (c % 10)]) ∧
    ∃ t, exec (.setint v) s = .next t ∧
    Rendered s t
      { s.ctl.answered 6 v (if s.acked 12 then .ok else .nack) with
        digits := digitsOf v
        disp := #v[.index ⟨(digitsOf v)[0].toNat, by omega⟩, .index ⟨(digitsOf v)[1].toNat, by omega⟩,
          .index ⟨(digitsOf v)[2].toNat, by omega⟩]
        curP := 2, curTx := lastTx s.params, opAck := s.acked 12 }
      (renderFrames s.params s.ctl.bright 0 (s.params.segTable.get ⟨(digitsOf v)[0].toNat, by omega⟩) ++
        renderFrames s.params s.ctl.bright 1 (s.params.segTable.get ⟨(digitsOf v)[1].toNat, by omega⟩) ++
        renderFrames s.params s.ctl.bright 2 (s.params.segTable.get ⟨(digitsOf v)[2].toNat, by omega⟩))

/-- R79: a request with an illegal OP is accepted, answered INVALID, and has no other effect. -/
def Obligations.IllegalOpsOnlyAnswer : Prop :=
  ∀ (s : State) (arg : BitVec 28) (k : BitVec 3),
    (∃ t, exec (.illegalZero arg) s = .next t ∧ OnlyAnswered s t s.ctl 0 arg .invalid) ∧
    (∃ t, exec (.illegalSeven arg) s = .next t ∧ OnlyAnswered s t s.ctl 7 arg .invalid) ∧
    (∃ t, exec (.illegalHigh k arg) s = .next t ∧ OnlyAnswered s t s.ctl (8 + k.setWidth 4) arg .invalid) ∧
    ∀ w : ReqWord, w.extractLsb' 28 4 = 0 ∨ 7 ≤ (w.extractLsb' 28 4).toNat →
      ∃ t, exec (decodeRequest w) s = .next t ∧
        OnlyAnswered s t s.ctl (w.extractLsb' 28 4) (w.extractLsb' 0 28) .invalid

/-- R202: INVALID is the answer exactly on an illegal OP, a level above 7, a position above 2 or an index above 22; then
BRIGHT, DISP, DIGITS and the pins are as they were, no micro-op is performed, and nothing but the code is recorded. -/
def Obligations.InvalidExactlyOnViolation : Prop :=
  ∀ (i : Instr) (s : State), i.isRequest = true → ∃ t, exec i s = .next t ∧
    (t.ctl.lastResp = .invalid ↔
      (∃ a, i = .illegalZero a ∨ i = .illegalSeven a ∨ ∃ k, i = .illegalHigh k a) ∨
      (∃ g l, i = .setbrt g l ∧ 7 < l.toNat) ∨
      (∃ g a b, i = .setdig g a b ∧ (2 < a.toNat ∨ 22 < b.toNat)) ∨
      (∃ g a b, i = .setpat g a b ∧ 2 < a.toNat)) ∧
    (t.ctl.lastResp = .invalid →
      t.ctl.bright = s.ctl.bright ∧ t.ctl.disp = s.ctl.disp ∧ t.ctl.digits = s.ctl.digits ∧ t.pins = s.pins ∧
      t.chan = s.chan ∧ t.cfg = s.cfg ∧ t.ctl.curP = s.ctl.curP ∧ t.ctl.curTx = s.ctl.curTx ∧ t.ctl.opAck = s.ctl.opAck ∧
      t.env.dioIn = s.env.dioIn ∧ t.env.draws = s.env.draws ∧ ∃ evs, Emits s t evs ∧ opTimes evs = [])

/-- R205, R203: the code of a request that passes validation: OK where none of its samples read 1; else NODEV for INIT and
NACK for the others. -/
def Obligations.CodeFollowsTheSamples : Prop :=
  ∀ (i : Instr) (s : State), i.isRequest = true → ∃ t, exec i s = .next t ∧
    (t.ctl.lastResp ≠ .invalid →
      (s.acked (t.env.draws - s.env.draws) = true → t.ctl.lastResp = .ok) ∧
      (s.acked (t.env.draws - s.env.draws) = false →
        ((∃ g, i = .init g) → t.ctl.lastResp = .nodev) ∧ ((∀ g, i ≠ .init g) → t.ctl.lastResp = .nack)))

/-- R59, R161: each request posts exactly one response, after all of its micro-ops, and the block is then ready. -/
def Obligations.OneResponsePerRequest : Prop :=
  ∀ (i : Instr) (s : State), i.isRequest = true → ∃ t, exec i s = .next t ∧
    t.ctl.busy = false ∧ t.ctl.respValid = false ∧
    ∃ evs, Emits s t (evs ++ [.response t.ctl.lastResp (t.env.cycles - 1)]) ∧ responses evs = []

/-- R180: the bytes each request sends, whatever is acknowledged. -/
def Obligations.FixedByteCounts : Prop :=
  ∀ (i : Instr) (s : State), i.isRequest = true → ∃ t, exec i s = .next t ∧
    ∃ evs, Emits s t evs ∧ (framesOf evs).map List.length = requestLens s.params i ∧
      (framesOf evs).flatten.length = (match i with
        | .init _ | .clear _ | .setint _ => 12
        | .setdig _ a b => if a.toNat ≤ 2 ∧ b.toNat ≤ 22 then 4 else 0
        | .setpat _ a _ => if a.toNat ≤ 2 then 4 else 0
        | _ => 0)

/-- R81, R126 to R135: a wire command (FIXED_ADDR, ADDR(p) for p in 0..2, DATA, DISP_ON, DISP_OFF) shifts its byte out LSB
first at the current byte of the frame, samples one acknowledgment into ACK_ACC, leaves CLK low and DIO driven low, and the
next byte of the frame or STOP follows; the request registers, the configuration and the frame's other bytes stay.  That a
byte of the frame is run as an instruction of its own, DISP_OFF among them, is the model's choice (log 3, log 9). -/
def Obligations.WireCommandsShiftTheirByte : Prop :=
  ∀ (s : State) (i : Instr) (b : Byte), i.isRequest = false → i.wellFormed = true → encodeWire s.params i = some b →
    ∃ t, exec i s = .next t ∧ t.cfg = s.cfg ∧ t.ctl = s.ctl ∧
      t.pins = { clkOut := false, dioOut := false, dioOe := true } ∧
      t.chan.ackAcc = (s.chan.ackAcc && !s.sampleAt 0) ∧
      t.chan.frame = s.chan.frame.set s.chan.byteIdx.toNat b (s.chan.byteIdx.isLt) ∧ t.chan.frameLen = s.chan.frameLen ∧
      t.chan.waitCnt = 0 ∧
      (s.chan.byteIdx.toNat < s.chan.frameLen.toNat - 1 →
        t.chan.pos = some .b1 ∧ t.chan.bitIdx = 0 ∧ t.chan.byteIdx = s.chan.byteIdx + 1) ∧
      (¬ s.chan.byteIdx.toNat < s.chan.frameLen.toNat - 1 → t.chan.pos = some .p1 ∧ t.chan.byteIdx = s.chan.byteIdx) ∧
      t.env.rstIn = s.env.rstIn ∧ t.env.reqIn = s.env.reqIn ∧ t.env.grain = s.env.grain ∧
      t.env.dioIn = s.env.dioIn.tail ∧ t.env.draws = s.env.draws + 1 ∧
      t.env.cycles = s.env.cycles + (31 + 35 * s.params.qCycles) ∧
      ∃ evs, Emits s t evs ∧ (opTimes evs).map Prod.fst = (byteScript b).map Prod.fst ∧
        risingLevels s.pins.clkOut evs = levelsOfByte b ++ [true]

/-- `exec` refuses the ill-formed term ADDR(3): the model's choice (log 10).  Which addresses a request emits is
RequestsSendWholeRenders. -/
def Obligations.NoFourthDigit : Prop := ∀ s : State, exec (.addr 3) s = .refused .noSuchDigit

/-- R175: where the command values of the configuration do not overlap (as the defaults do not), the value CMD_DISP_OFF stands
in no frame of any request but in DATA's place.  What the frames hold, in every configuration, is
RequestsSendWholeRenders. -/
def Obligations.NoRequestSendsDispOff : Prop :=
  ∀ (i : Instr) (s : State), i.isRequest = true → s.params.commandsDistinct = true → ∃ t, exec i s = .next t ∧
    ∃ evs, Emits s t evs ∧ ∀ f ∈ framesOf evs, ∀ (k : Nat) (b : Byte), f[k]? = some b →
      b = s.params.cmdDispOff → (s.params.framing = .single ∧ k = 2) ∨ (s.params.framing = .perCommand ∧ f.length = 2 ∧ k = 1)

/-- R204, R161: after its response, whatever the code, a request leaves the block quiet and ready for the next one.  The
sequencer's stage and latency count are the model's own (log 7). -/
def Obligations.AnsweredBlockIsQuiet : Prop :=
  ∀ (i : Instr) (s : State), i.isRequest = true → s.Quiet → ∃ t, exec i s = .next t ∧ t.Quiet ∧ t.reqReady = !t.rstLevel ∧
    t.ctl.stage = .resp

/-! Acceptance, the clock and reset. -/

/-- R160: at grain `request` (log 3), a ready block out of reset runs the request presented, decoded from its word. -/
def Obligations.StepRunsThePresentedRequest : Prop :=
  ∀ (s : State) (w : ReqWord) (rest : List (Option ReqWord)), s.env.grain = .request → s.rstLevel = false →
    s.ctl.busy = false → s.env.reqIn = some w :: rest →
    step s = exec (decodeRequest w) { s with env := { s.env with rstIn := s.env.rstIn.tail, reqIn := rest } }

/-- R126, R82, R178: at grain `request` (log 3), a BitChannel about to shift the first bit of a byte runs the wire command that
the byte is in its place: DATA, whatever its value, at byte 2 of the one frame under SINGLE and at byte 1 of transaction 1 under
PER_COMMAND; elsewhere the command whose value it has, and one cycle where it has none.  The sequencer's stage is the model's
own (log 7). -/
def Obligations.StepRunsTheFrameByte : Prop :=
  ∀ (s t : State) (b : Byte), s.env.grain = .request → s.rstLevel = false → s.ctl.busy = true → s.ctl.respValid = false →
    s.ctl.stage = .run → s.chan.waitCnt = 0 → s.chan.pos = some .b1 → s.chan.bitIdx = 0 →
    t = { s with env := { s.env with rstIn := s.env.rstIn.tail } } →
    b = s.chan.frame[s.chan.byteIdx.toNat]'(s.chan.byteIdx.isLt) →
    ((s.params.framing = .single ∧ s.chan.byteIdx = 2) ∨
        (s.params.framing = .perCommand ∧ s.ctl.curTx = 1 ∧ s.chan.byteIdx = 1) → step s = exec (.data b) t) ∧
    ((s.params.framing = .single ∧ s.chan.byteIdx ≠ 2) ∨
        (s.params.framing = .perCommand ∧ ¬ (s.ctl.curTx = 1 ∧ s.chan.byteIdx = 1)) →
      (∀ i, decodeWire s.params .command b = .ok i → step s = exec i t) ∧
      (∀ e, decodeWire s.params .command b = .error e → step s = .next s.tick)) ∧
    ∀ i, decodeWire s.params s.wirePlace s.curByte = .ok i → step s = exec i t

/-- R160: acceptance, clocked: in the cycle a ready block out of reset sees a request, CUR_OP and CUR_ARG take its fields,
and BUSY is 1 from the next cycle. -/
def Obligations.AcceptanceLatchesTheWord : Prop :=
  ∀ (s : State) (w : ReqWord) (rest : List (Option ReqWord)), s.rstLevel = false → s.ctl.busy = false →
    s.env.reqIn = some w :: rest →
    s.tick.ctl.curOp = w.extractLsb' 28 4 ∧ s.tick.ctl.curArg = w.extractLsb' 0 28 ∧ s.tick.ctl.busy = true ∧
    s.tick.env.reqIn = rest ∧ s.tick.env.cycles = s.env.cycles + 1 ∧ s.tick.env.trace = s.env.trace

/-- R160, R57: while the block is busy, what the host presents changes nothing and stays presented. -/
def Obligations.BusyBlockIgnoresTheRequestPort : Prop :=
  ∀ (s : State) (r : List (Option ReqWord)), s.ctl.busy = true →
    s.tick.env.reqIn = s.env.reqIn ∧
    { s with env := { s.env with reqIn := r } }.tick = { s.tick with env := { s.tick.env with reqIn := r } }

/-- R161: the response cycle: RESP_CODE goes to LAST_RESP, the pulse ends, and BUSY is 0 from the next cycle. -/
def Obligations.ResponsePulseLastsOneCycle : Prop :=
  ∀ s : State, s.rstLevel = false → s.ctl.busy = true → s.ctl.respValid = true →
    s.tick.ctl = { s.ctl with lastResp := s.ctl.respCode, respValid := false, busy := false } ∧
    s.tick.pins = s.pins ∧ s.tick.chan = s.chan ∧ s.tick.cfg = s.cfg

/-- R214: a quiet block with nothing presented keeps every register and pin. -/
def Obligations.IdleBlockKeepsItsState : Prop :=
  ∀ s : State, s.Quiet → s.rstLevel = false → (∀ w, s.env.reqIn.head? ≠ some (some w)) →
    s.tick.ctl = s.ctl ∧ s.tick.chan = s.chan ∧ s.tick.pins = s.pins ∧ s.tick.cfg = s.cfg

/-- R244: headline.  From a quiet block out of reset, the request on the port, clocked cycle by cycle for the exact number of
cycles of R244 and the response cycle, gives the very state that the instruction's meaning gives in one step (log 3). -/
def Obligations.ClockedRunIsTheMeaning : Prop :=
  ∀ (s : State) (w : ReqWord) (rest : List (Option ReqWord)), s.Quiet → s.env.rstIn = [] → s.env.reqIn = some w :: rest →
    exec (decodeRequest w) { s with env := { s.env with reqIn := rest } } =
      .next (State.tick^[requestCycles s.params (requestLens s.params (decodeRequest w)) + 1] s)

/-- R231, R234: after reset the block runs the construction by itself, as if INIT had been accepted: clocked or in one step,
three blank renders with brightness 2, OK or NODEV, and then it is ready.  One step for all of it is the model's grain
(log 3). -/
def Obligations.ConstructionFollowsReset : Prop :=
  ∀ (c : Config) (e : Env), e.rstIn = [] →
    step (State.resetFor c { e with grain := .request }) =
      .next (State.tick^[requestCycles c.val (requestLens c.val (.init 0)) + 1] (State.resetFor c { e with grain := .request })) ∧
    ∃ t, step (State.resetFor c { e with grain := .request }) = .next t ∧
      exec (.init 0) (State.resetFor c { e with grain := .request }) = .next t ∧ t.Quiet

/-- R230, R232: in a cycle with `rst` = 1, from any state and at either grain, every field R38 gives a value takes it; no
micro-op is performed, no response is posted, no request is accepted.  The state after it is the reset state of its
configuration whole, so nothing of an abandoned request is left; the fields R38 leaves unspecified and the sequencer's stage,
latency count and transaction index take the model's values (log 5, log 7). -/
def Obligations.ResetCycleAbandonsEverything : Prop :=
  ∀ s : State, s.rstLevel = true → ∃ t, step s = .next t ∧
    t.pins = { clkOut := true, dioOut := true, dioOe := true } ∧ t.phase = .idle ∧ t.ustep = 0 ∧ t.chan.bitIdx = 0 ∧
    t.chan.byteIdx = 0 ∧ t.chan.waitCnt = 0 ∧ t.ctl.bright = 2 ∧
    t.ctl.disp = #v[.index s.params.blankIndex, .index s.params.blankIndex, .index s.params.blankIndex] ∧
    t.ctl.busy = true ∧ t.ctl.lastResp = .ok ∧ t.ctl.curOp = 1 ∧ t.ctl.curArg = 0 ∧ t.ctl.curP = 0 ∧
    t.ctl.opAck = true ∧ t.ctl.respValid = false ∧ t.ctl.respCode = .ok ∧ t.cfg = s.cfg ∧
    t.env.reqIn = s.env.reqIn ∧ t.env.draws = s.env.draws ∧ t.env.dioIn = s.env.dioIn ∧
    Emits s t [.reset s.env.cycles] ∧ s.reqReady = false ∧ s.respValidPort = false ∧
    t = State.resetFor s.cfg t.env

/-- R38: the machine right after reset, in every configuration. -/
def Obligations.ResetValues : Prop :=
  ∀ (c : Config) (e : Env),
    (State.resetFor c e).pins = { clkOut := true, dioOut := true, dioOe := true } ∧
    (State.resetFor c e).phase = .idle ∧ (State.resetFor c e).ustep = 0 ∧ (State.resetFor c e).chan.bitIdx = 0 ∧
    (State.resetFor c e).chan.byteIdx = 0 ∧ (State.resetFor c e).chan.waitCnt = 0 ∧
    (State.resetFor c e).ctl.bright = 2 ∧ (∀ n : Fin 3, (State.resetFor c e).rbDisp n = BitVec.ofNat 9 c.val.blankIndex.val) ∧
    (State.resetFor c e).rbStatus = 1 ∧ (State.resetFor c e).ctl.curOp = 1 ∧ (State.resetFor c e).ctl.curArg = 0 ∧
    (State.resetFor c e).ctl.curP = 0 ∧ (State.resetFor c e).ctl.opAck = true ∧
    (State.resetFor c e).ctl.respValid = false ∧ (State.resetFor c e).respCodePort = 0

/-- R35, R30, R80, R20, R161: the readback registers' layout with the codes of LAST_RESP, `req_ready`, the response port in the
response cycle and outside it, and what the block drives on DIO.  That BUSY reads 1 and `resp_valid` 0 in a cycle with `rst` = 1
whatever the registers hold is the model's choice (log 11). -/
def Obligations.ReadbackLayout : Prop :=
  ∀ s : State,
    s.rbStatus.getLsbD 0 = (s.ctl.busy || s.rstLevel) ∧ s.reqReady = !(s.ctl.busy || s.rstLevel) ∧
    s.rbStatus.extractLsb' 1 2 = (match s.ctl.lastResp with
      | .ok => 0 | .nack => 1 | .invalid => 2 | .nodev => 3) ∧
    s.rbStatus.extractLsb' 3 5 = 0 ∧ s.rbBright = s.ctl.bright ∧
    (∀ (n : Fin 3) (i : Fin 23), s.ctl.disp.get n = .index i → s.rbDisp n = BitVec.ofNat 9 i.val) ∧
    (∀ (n : Fin 3) (v : Byte), s.ctl.disp.get n = .raw v → s.rbDisp n = BitVec.ofNat 9 (256 + v.toNat)) ∧
    (s.rstLevel = false → s.ctl.respValid = true → s.respValidPort = true ∧ s.respCodePort = (match s.ctl.respCode with
      | .ok => 0 | .nack => 1 | .invalid => 2 | .nodev => 3)) ∧
    (s.rstLevel = true ∨ s.ctl.respValid = false → s.respValidPort = false) ∧
    (s.pins.dioOe = true → s.dioDriven = some s.pins.dioOut) ∧ (s.pins.dioOe = false → s.dioDriven = none)

/-! Invariants of every step. -/

/-- The machine right after reset meets the invariant; that FRAME_LEN is in range there is the model's choice (log 5),
and the stage is the model's own (log 7). -/
def Obligations.ResetMeetsTheInvariant : Prop := State.reset.Inv ∧ ∀ (c : Config) (e : Env), (State.resetFor c e).Inv

/-- Headline: every step, at either grain, keeps the invariant: the idle levels in IDLE (R138), IDLE while no transaction is
being sent, an awaited S1 not overdue (R146), the levels each micro-op finds, a response posted in its place, FRAME_LEN and BYTEIDX in range, and WAITCNT within its bound.  The stage and the latency count
it speaks of, and that IDLE lasts until the cycle of S1, are the model's choice (log 7). -/
def Obligations.StepKeepsTheInvariant : Prop :=
  ∀ s t : State, s.Inv → step s = .next t → t.Inv

/-- R37: no step writes the configuration. -/
def Obligations.StepKeepsTheConfiguration : Prop :=
  ∀ s t : State, step s = .next t → t.cfg = s.cfg

/-- R200, R204: the block always goes on: no step faults or refuses, and no run ends. -/
def Obligations.EveryRunGoesOn : Prop := ∀ (n : Nat) (s : State), SafeRun n s

/-! What every request sends, when it begins, and what DISP holds then. -/

/-- R163, R51, R56, R175: in every configuration, the frames of every request are whole renders, one after another, all with
one brightness: so the byte after FIXED_ADDR is CMD_ADDR_BASE + p with p in 0..2, and the commands are FIXED_ADDR, ADDR and
DISP_ON. -/
def Obligations.RequestsSendWholeRenders : Prop :=
  ∀ (i : Instr) (s : State), i.isRequest = true → ∃ t, exec i s = .next t ∧
    ∃ evs, Emits s t evs ∧ ∃ (b : BitVec 3) (renders : List (Fin 3 × Byte)),
      framesOf evs = renders.flatMap (fun r => renderFrames s.params b r.1 r.2) ∧
      (framesOf evs).flatten = renders.flatMap (fun r =>
        [s.params.cmdFixedAddr, s.params.cmdAddrBase + BitVec.ofNat 8 r.1.val, r.2, s.params.cmdDispOnBase + b.setWidth 8])

/-- R38, R231, R146: clocked, the reset values hold after reset until the construction's first micro-op, PHASE = IDLE among
them: in each of the ISSUE_LAT cycles from the first with `rst` = 0 on, the state still holds them and nothing has appeared on
the ports; in the next cycle S1 is performed.  That the position is already S1 in that cycle, before S1 is performed in it, is
the model's choice (log 7). -/
def Obligations.ResetValuesHoldUntilTheFirstMicroOp : Prop :=
  ∀ (c : Config) (e : Env), e.rstIn = [] →
    (∀ j, j < c.val.issueLat →
      (State.tick^[j] (State.resetFor c e)).AtReset ∧ (State.tick^[j] (State.resetFor c e)).env.trace = e.trace) ∧
    (State.tick^[c.val.issueLat] (State.resetFor c e)).chan.pos = some .s1 ∧
    (State.tick^[c.val.issueLat + 1] (State.resetFor c e)).env.trace =
      .micro .s1 (e.cycles + c.val.issueLat) true true true :: e.trace

/-- R146: clocked, the first micro-op of a rendering request is performed ISSUE_LAT cycles after its acceptance and no earlier.
The clauses about the position, that PHASE is IDLE before the cycle of S1 and the position S1 in it, are the model's choice
(log 7). -/
def Obligations.FirstMicroOpComesAfterIssueLat : Prop :=
  ∀ (s : State) (w : ReqWord) (rest : List (Option ReqWord)), s.Quiet → s.env.rstIn = [] → s.env.reqIn = some w :: rest →
    requestLens s.params (decodeRequest w) ≠ [] →
    (∀ j, j < s.params.issueLat → (State.tick^[j] s).phase = .idle ∧ (State.tick^[j] s).env.trace = s.env.trace) ∧
    (State.tick^[s.params.issueLat] s).chan.pos = some .s1 ∧
    (State.tick^[s.params.issueLat + 1] s).env.trace =
      .micro .s1 (s.env.cycles + s.params.issueLat) true true true :: s.env.trace

/-- R172, R59: on the clocked machine, from reset and in every cycle on: while a transaction is awaited or being sent, and so
whenever its S1 is performed, DISP at the position being rendered already holds the glyph that the accepted request shows
there, whatever has been acknowledged, and FRAME holds the transaction of that glyph's render.  The cycle of the write and
the sequencer's stage are the model's (log 6, log 7). -/
def Obligations.DispHoldsTheGlyphBeforeItsRender : Prop :=
  (∀ (c : Config) (e : Env), (State.resetFor c e).Showing) ∧ ∀ s : State, s.Showing → s.tick.Showing
end

