-- ==== Sys2Proof/Laws/State.lean ====
section
/-! SUPPORT. Laws/State.lean: what each named operation does to each component of the state, one lemma for each, so that no
later proof unfolds a record update. -/

namespace Sys2Proof.Machine

variable (s : State)

@[simp] theorem State.setClk_cfg (v : Bool) : (s.setClk v).cfg = s.cfg := rfl
@[simp] theorem State.setClk_pins (v : Bool) : (s.setClk v).pins = { s.pins with clkOut := v } := rfl
@[simp] theorem State.setClk_chan (v : Bool) : (s.setClk v).chan = s.chan := rfl
@[simp] theorem State.setClk_ctl (v : Bool) : (s.setClk v).ctl = s.ctl := rfl
@[simp] theorem State.setClk_env (v : Bool) : (s.setClk v).env = s.env := rfl

@[simp] theorem State.setDio_cfg (v : Bool) : (s.setDio v).cfg = s.cfg := rfl
@[simp] theorem State.setDio_pins (v : Bool) : (s.setDio v).pins = { s.pins with dioOut := v } := rfl
@[simp] theorem State.setDio_chan (v : Bool) : (s.setDio v).chan = s.chan := rfl
@[simp] theorem State.setDio_ctl (v : Bool) : (s.setDio v).ctl = s.ctl := rfl
@[simp] theorem State.setDio_env (v : Bool) : (s.setDio v).env = s.env := rfl

@[simp] theorem State.releaseDio_cfg : s.releaseDio.cfg = s.cfg := rfl
@[simp] theorem State.releaseDio_pins : s.releaseDio.pins = { s.pins with dioOe := false } := rfl
@[simp] theorem State.releaseDio_chan : s.releaseDio.chan = s.chan := rfl
@[simp] theorem State.releaseDio_ctl : s.releaseDio.ctl = s.ctl := rfl
@[simp] theorem State.releaseDio_env : s.releaseDio.env = s.env := rfl

@[simp] theorem State.driveLow_cfg : s.driveLow.cfg = s.cfg := rfl
@[simp] theorem State.driveLow_pins : s.driveLow.pins =
    { s.pins with dioOut := false, dioOe := true } := rfl
@[simp] theorem State.driveLow_chan : s.driveLow.chan = s.chan := rfl
@[simp] theorem State.driveLow_ctl : s.driveLow.ctl = s.ctl := rfl
@[simp] theorem State.driveLow_env : s.driveLow.env = s.env := rfl

@[simp] theorem State.outputMode_cfg : s.outputMode.cfg = s.cfg := rfl
@[simp] theorem State.outputMode_pins : s.outputMode.pins = { s.pins with dioOe := true } := rfl
@[simp] theorem State.outputMode_chan : s.outputMode.chan = s.chan := rfl
@[simp] theorem State.outputMode_ctl : s.outputMode.ctl = s.ctl := rfl
@[simp] theorem State.outputMode_env : s.outputMode.env = s.env := rfl

@[simp] theorem State.pass_cfg (n : Nat) : (s.pass n).cfg = s.cfg := rfl
@[simp] theorem State.pass_pins (n : Nat) : (s.pass n).pins = s.pins := rfl
@[simp] theorem State.pass_chan (n : Nat) : (s.pass n).chan = s.chan := rfl
@[simp] theorem State.pass_ctl (n : Nat) : (s.pass n).ctl = s.ctl := rfl
@[simp] theorem State.pass_env (n : Nat) : (s.pass n).env =
    { s.env with cycles := s.env.cycles + n } := rfl

@[simp] theorem State.gap_cfg : s.gap.cfg = s.cfg := rfl
@[simp] theorem State.gap_pins : s.gap.pins = s.pins := rfl
@[simp] theorem State.gap_chan : s.gap.chan = s.chan := rfl
@[simp] theorem State.gap_ctl : s.gap.ctl = s.ctl := rfl
@[simp] theorem State.gap_env : s.gap.env =
    { s.env with cycles := s.env.cycles + s.params.gapQ * s.params.qCycles } := rfl

@[simp] theorem State.popRst_cfg : s.popRst.cfg = s.cfg := rfl
@[simp] theorem State.popRst_pins : s.popRst.pins = s.pins := rfl
@[simp] theorem State.popRst_chan : s.popRst.chan = s.chan := rfl
@[simp] theorem State.popRst_ctl : s.popRst.ctl = s.ctl := rfl
@[simp] theorem State.popRst_env : s.popRst.env = { s.env with rstIn := s.env.rstIn.tail } := rfl

@[simp] theorem State.popReq_cfg : s.popReq.cfg = s.cfg := rfl
@[simp] theorem State.popReq_pins : s.popReq.pins = s.pins := rfl
@[simp] theorem State.popReq_chan : s.popReq.chan = s.chan := rfl
@[simp] theorem State.popReq_ctl : s.popReq.ctl = s.ctl := rfl
@[simp] theorem State.popReq_env : s.popReq.env = { s.env with reqIn := s.env.reqIn.tail } := rfl

@[simp] theorem State.popSample_cfg : s.popSample.cfg = s.cfg := rfl
@[simp] theorem State.popSample_pins : s.popSample.pins = s.pins := rfl
@[simp] theorem State.popSample_chan : s.popSample.chan = s.chan := rfl
@[simp] theorem State.popSample_ctl : s.popSample.ctl = s.ctl := rfl
@[simp] theorem State.popSample_env : s.popSample.env =
    { s.env with dioIn := s.env.dioIn.tail, draws := s.env.draws + 1 } := rfl

@[simp] theorem State.emit_cfg (e : PortEvent) : (s.emit e).cfg = s.cfg := rfl
@[simp] theorem State.emit_pins (e : PortEvent) : (s.emit e).pins = s.pins := rfl
@[simp] theorem State.emit_chan (e : PortEvent) : (s.emit e).chan = s.chan := rfl
@[simp] theorem State.emit_ctl (e : PortEvent) : (s.emit e).ctl = s.ctl := rfl
@[simp] theorem State.emit_env (e : PortEvent) : (s.emit e).env = { s.env with trace := e :: s.env.trace } := rfl

@[simp] theorem State.loadWait_cfg (k : Nat) : (s.loadWait k).cfg = s.cfg := rfl
@[simp] theorem State.loadWait_pins (k : Nat) : (s.loadWait k).pins = s.pins := rfl
@[simp] theorem State.loadWait_chan (k : Nat) : (s.loadWait k).chan =
    { s.chan with waitCnt := k * s.params.qCycles } := rfl
@[simp] theorem State.loadWait_ctl (k : Nat) : (s.loadWait k).ctl = s.ctl := rfl
@[simp] theorem State.loadWait_env (k : Nat) : (s.loadWait k).env = s.env := rfl

@[simp] theorem State.goTo_cfg (m : MicroOp) : (s.goTo m).cfg = s.cfg := rfl
@[simp] theorem State.goTo_pins (m : MicroOp) : (s.goTo m).pins = s.pins := rfl
@[simp] theorem State.goTo_chan (m : MicroOp) : (s.goTo m).chan = { s.chan with pos := some m } := rfl
@[simp] theorem State.goTo_ctl (m : MicroOp) : (s.goTo m).ctl = s.ctl := rfl
@[simp] theorem State.goTo_env (m : MicroOp) : (s.goTo m).env = s.env := rfl

@[simp] theorem State.goIdle_cfg : s.goIdle.cfg = s.cfg := rfl
@[simp] theorem State.goIdle_pins : s.goIdle.pins = s.pins := rfl
@[simp] theorem State.goIdle_chan : s.goIdle.chan = { s.chan with pos := none } := rfl
@[simp] theorem State.goIdle_ctl : s.goIdle.ctl = s.ctl := rfl
@[simp] theorem State.goIdle_env : s.goIdle.env = s.env := rfl

@[simp] theorem State.setBitIdx_cfg (i : BitVec 3) : (s.setBitIdx i).cfg = s.cfg := rfl
@[simp] theorem State.setBitIdx_pins (i : BitVec 3) : (s.setBitIdx i).pins = s.pins := rfl
@[simp] theorem State.setBitIdx_chan (i : BitVec 3) : (s.setBitIdx i).chan = { s.chan with bitIdx := i } := rfl
@[simp] theorem State.setBitIdx_ctl (i : BitVec 3) : (s.setBitIdx i).ctl = s.ctl := rfl
@[simp] theorem State.setBitIdx_env (i : BitVec 3) : (s.setBitIdx i).env = s.env := rfl

@[simp] theorem State.setByteIdx_cfg (j : BitVec 2) : (s.setByteIdx j).cfg = s.cfg := rfl
@[simp] theorem State.setByteIdx_pins (j : BitVec 2) : (s.setByteIdx j).pins = s.pins := rfl
@[simp] theorem State.setByteIdx_chan (j : BitVec 2) : (s.setByteIdx j).chan = { s.chan with byteIdx := j } := rfl
@[simp] theorem State.setByteIdx_ctl (j : BitVec 2) : (s.setByteIdx j).ctl = s.ctl := rfl
@[simp] theorem State.setByteIdx_env (j : BitVec 2) : (s.setByteIdx j).env = s.env := rfl

@[simp] theorem State.startAck_cfg : s.startAck.cfg = s.cfg := rfl
@[simp] theorem State.startAck_pins : s.startAck.pins = s.pins := rfl
@[simp] theorem State.startAck_chan : s.startAck.chan = { s.chan with ackAcc := true } := rfl
@[simp] theorem State.startAck_ctl : s.startAck.ctl = s.ctl := rfl
@[simp] theorem State.startAck_env : s.startAck.env = s.env := rfl

@[simp] theorem State.elapse_cfg : s.elapse.cfg = s.cfg := rfl
@[simp] theorem State.elapse_pins : s.elapse.pins = s.pins := rfl
@[simp] theorem State.elapse_chan : s.elapse.chan = { s.chan with waitCnt := 0 } := rfl
@[simp] theorem State.elapse_ctl : s.elapse.ctl = s.ctl := rfl
@[simp] theorem State.elapse_env : s.elapse.env =
    { s.env with cycles := s.env.cycles + s.chan.waitCnt } := rfl

@[simp] theorem State.sampleAck_cfg : s.sampleAck.cfg = s.cfg := rfl
@[simp] theorem State.sampleAck_pins : s.sampleAck.pins = s.pins := rfl
@[simp] theorem State.sampleAck_chan : s.sampleAck.chan =
    { s.chan with ackAcc := foldSample s.chan.ackAcc s.dioLevel } := rfl
@[simp] theorem State.sampleAck_ctl : s.sampleAck.ctl = s.ctl := rfl
@[simp] theorem State.sampleAck_env : s.sampleAck.env =
    { s.env with dioIn := s.env.dioIn.tail, draws := s.env.draws + 1 } := rfl

@[simp] theorem State.latch_cfg (op : BitVec 4) (arg : BitVec 28) : (s.latch op arg).cfg = s.cfg := rfl
@[simp] theorem State.latch_pins (op : BitVec 4) (arg : BitVec 28) : (s.latch op arg).pins = s.pins := rfl
@[simp] theorem State.latch_chan (op : BitVec 4) (arg : BitVec 28) : (s.latch op arg).chan = s.chan := rfl
@[simp] theorem State.latch_ctl (op : BitVec 4) (arg : BitVec 28) : (s.latch op arg).ctl =
    { s.ctl with curOp := op, curArg := arg, busy := true, respValid := false } := rfl
@[simp] theorem State.latch_env (op : BitVec 4) (arg : BitVec 28) : (s.latch op arg).env = s.env := rfl

@[simp] theorem State.setBright_cfg (b : BitVec 3) : (s.setBright b).cfg = s.cfg := rfl
@[simp] theorem State.setBright_pins (b : BitVec 3) : (s.setBright b).pins = s.pins := rfl
@[simp] theorem State.setBright_chan (b : BitVec 3) : (s.setBright b).chan = s.chan := rfl
@[simp] theorem State.setBright_ctl (b : BitVec 3) : (s.setBright b).ctl = { s.ctl with bright := b } := rfl
@[simp] theorem State.setBright_env (b : BitVec 3) : (s.setBright b).env = s.env := rfl

@[simp] theorem State.setDisp_cfg (p : Fin 3) (g : GlyphRef) : (s.setDisp p g).cfg = s.cfg := rfl
@[simp] theorem State.setDisp_pins (p : Fin 3) (g : GlyphRef) : (s.setDisp p g).pins = s.pins := rfl
@[simp] theorem State.setDisp_chan (p : Fin 3) (g : GlyphRef) : (s.setDisp p g).chan = s.chan := rfl
@[simp] theorem State.setDisp_ctl (p : Fin 3) (g : GlyphRef) : (s.setDisp p g).ctl =
    { s.ctl with disp := s.ctl.disp.set p g } := rfl
@[simp] theorem State.setDisp_env (p : Fin 3) (g : GlyphRef) : (s.setDisp p g).env = s.env := rfl

@[simp] theorem State.setCurP_cfg (p : Fin 3) : (s.setCurP p).cfg = s.cfg := rfl
@[simp] theorem State.setCurP_pins (p : Fin 3) : (s.setCurP p).pins = s.pins := rfl
@[simp] theorem State.setCurP_chan (p : Fin 3) : (s.setCurP p).chan = s.chan := rfl
@[simp] theorem State.setCurP_ctl (p : Fin 3) : (s.setCurP p).ctl = { s.ctl with curP := p } := rfl
@[simp] theorem State.setCurP_env (p : Fin 3) : (s.setCurP p).env = s.env := rfl

@[simp] theorem State.setCurTx_cfg (tx : Fin 3) : (s.setCurTx tx).cfg = s.cfg := rfl
@[simp] theorem State.setCurTx_pins (tx : Fin 3) : (s.setCurTx tx).pins = s.pins := rfl
@[simp] theorem State.setCurTx_chan (tx : Fin 3) : (s.setCurTx tx).chan = s.chan := rfl
@[simp] theorem State.setCurTx_ctl (tx : Fin 3) : (s.setCurTx tx).ctl = { s.ctl with curTx := tx } := rfl
@[simp] theorem State.setCurTx_env (tx : Fin 3) : (s.setCurTx tx).env = s.env := rfl

@[simp] theorem State.setDigits_cfg (d : Vector (BitVec 4) 3) : (s.setDigits d).cfg = s.cfg := rfl
@[simp] theorem State.setDigits_pins (d : Vector (BitVec 4) 3) : (s.setDigits d).pins = s.pins := rfl
@[simp] theorem State.setDigits_chan (d : Vector (BitVec 4) 3) : (s.setDigits d).chan = s.chan := rfl
@[simp] theorem State.setDigits_ctl (d : Vector (BitVec 4) 3) : (s.setDigits d).ctl = { s.ctl with digits := d } := rfl
@[simp] theorem State.setDigits_env (d : Vector (BitVec 4) 3) : (s.setDigits d).env = s.env := rfl

@[simp] theorem State.startOpAck_cfg : s.startOpAck.cfg = s.cfg := rfl
@[simp] theorem State.startOpAck_pins : s.startOpAck.pins = s.pins := rfl
@[simp] theorem State.startOpAck_chan : s.startOpAck.chan = s.chan := rfl
@[simp] theorem State.startOpAck_ctl : s.startOpAck.ctl = { s.ctl with opAck := true } := rfl
@[simp] theorem State.startOpAck_env : s.startOpAck.env = s.env := rfl

@[simp] theorem State.foldOpAck_cfg : s.foldOpAck.cfg = s.cfg := rfl
@[simp] theorem State.foldOpAck_pins : s.foldOpAck.pins = s.pins := rfl
@[simp] theorem State.foldOpAck_chan : s.foldOpAck.chan = s.chan := rfl
@[simp] theorem State.foldOpAck_ctl : s.foldOpAck.ctl =
    { s.ctl with opAck := s.ctl.opAck && s.chan.ackAcc } := rfl
@[simp] theorem State.foldOpAck_env : s.foldOpAck.env = s.env := rfl

@[simp] theorem State.issue_cfg : s.issue.cfg = s.cfg := rfl
@[simp] theorem State.issue_pins : s.issue.pins = s.pins := rfl
@[simp] theorem State.issue_chan : s.issue.chan = s.chan := rfl
@[simp] theorem State.issue_ctl : s.issue.ctl = { s.ctl with opAck := true } := rfl
@[simp] theorem State.issue_env : s.issue.env =
    { s.env with cycles := s.env.cycles + s.params.issueLat } := rfl

@[simp] theorem State.prepareResponse_cfg (r : Resp) : (s.prepareResponse r).cfg = s.cfg := rfl
@[simp] theorem State.prepareResponse_pins (r : Resp) : (s.prepareResponse r).pins = s.pins := rfl
@[simp] theorem State.prepareResponse_chan (r : Resp) : (s.prepareResponse r).chan = s.chan := rfl
@[simp] theorem State.prepareResponse_ctl (r : Resp) : (s.prepareResponse r).ctl =
    { s.ctl with respCode := r, stage := .resp, latCnt := 0 } := rfl
@[simp] theorem State.prepareResponse_env (r : Resp) : (s.prepareResponse r).env = s.env := rfl

@[simp] theorem State.closeResponse_cfg : s.closeResponse.cfg = s.cfg := rfl
@[simp] theorem State.closeResponse_pins : s.closeResponse.pins = s.pins := rfl
@[simp] theorem State.closeResponse_chan : s.closeResponse.chan = s.chan := rfl
@[simp] theorem State.closeResponse_ctl : s.closeResponse.ctl =
    { s.ctl with lastResp := s.ctl.respCode, respValid := false, busy := false } := rfl
@[simp] theorem State.closeResponse_env : s.closeResponse.env =
    { s.env with trace := .response s.ctl.respCode s.env.cycles :: s.env.trace, cycles := s.env.cycles + 1 } := rfl

@[simp] theorem State.respond_cfg (r : Resp) : (s.respond r).cfg = s.cfg := rfl
@[simp] theorem State.respond_pins (r : Resp) : (s.respond r).pins = s.pins := rfl
@[simp] theorem State.respond_chan (r : Resp) : (s.respond r).chan = s.chan := rfl
@[simp] theorem State.respond_ctl (r : Resp) : (s.respond r).ctl =
    { s.ctl with
      lastResp := r, respCode := r, respValid := false, busy := false, stage := .resp, latCnt := 0 } := rfl
@[simp] theorem State.respond_env (r : Resp) : (s.respond r).env =
    { s.env with
      trace := .response r (s.env.cycles + s.params.respLat) :: s.env.trace,
      cycles := s.env.cycles + s.params.respLat + 1 } := rfl

end Sys2Proof.Machine
end

