-- ==== Sys2Proof/Laws/Channel.lean ====
section
/-! SUPPORT. Laws/Channel.lean: what a micro-op, a bit, an acknowledgment, a byte and a whole transaction do, each said once
as an equation for the whole state. -/

namespace Sys2Proof.Machine

/-- The pins after an action. -/
def pinsAfter (p : Pins) : Action → Pins
  | .clk v => { p with clkOut := v }
  | .dio v => { p with dioOut := v }
  | .dioIn => { p with dioOe := false }
  | .sample => p
  | .driveLow => { p with dioOut := false, dioOe := true }

/-- The event of a micro-op that leaves the pins p. -/
def opEvent (m : MicroOp) (c : Nat) (p : Pins) : PortEvent := .micro m c p.clkOut p.dioOut p.dioOe

/-- The events of micro-ops performed one after another, each with the bit it may put on DIO, from the pins p and the cycle
c on, oldest first. -/
def scriptEvents (q : Nat) : Pins → Nat → List (MicroOp × Bool) → List PortEvent
  | _, _, [] => []
  | p, c, (m, v) :: r =>
    opEvent m c (pinsAfter p (actionOf v m)) :: scriptEvents q (pinsAfter p (actionOf v m)) (c + 1 + waitOf m * q) r

/-- The pins after a script. -/
def scriptPins : Pins → List (MicroOp × Bool) → Pins
  | p, [] => p
  | p, (m, v) :: r => scriptPins (pinsAfter p (actionOf v m)) r

/-- The cycle in which a script begun in cycle c has ended. -/
def scriptEnd (q : Nat) : Nat → List (MicroOp × Bool) → Nat
  | c, [] => c
  | c, (m, _) :: r => scriptEnd q (c + 1 + waitOf m * q) r

theorem scriptEvents_append (q : Nat) (a b : List (MicroOp × Bool)) : ∀ (p : Pins) (c : Nat),
    scriptEvents q p c (a ++ b) = scriptEvents q p c a ++ scriptEvents q (scriptPins p a) (scriptEnd q c a) b := by
  induction a with
  | nil => intro p c; rfl
  | cons x a ih => intro p c; exact congrArg _ (ih _ _)

theorem scriptPins_append (a b : List (MicroOp × Bool)) : ∀ p : Pins,
    scriptPins p (a ++ b) = scriptPins (scriptPins p a) b := by
  induction a with
  | nil => intro p; rfl
  | cons x a ih => intro p; exact ih _

theorem scriptEnd_append (q : Nat) (a b : List (MicroOp × Bool)) : ∀ c : Nat,
    scriptEnd q c (a ++ b) = scriptEnd q (scriptEnd q c a) b := by
  induction a with
  | nil => intro c; rfl
  | cons x a ih => intro c; exact ih _

/-- The cycles of a script's micro-ops and waits. -/
def scriptCycles (q : Nat) (l : List (MicroOp × Bool)) : Nat := (l.map fun x => 1 + waitOf x.1 * q).sum

theorem scriptEnd_eq (q : Nat) (l : List (MicroOp × Bool)) : ∀ c : Nat, scriptEnd q c l = c + scriptCycles q l := by
  induction l with
  | nil => intro c; rfl
  | cons x l ih =>
    intro c
    simp only [scriptEnd, ih, scriptCycles, List.map_cons, List.sum_cons]
    omega

/-- The state after a script of micro-ops that leaves the channel and the inputs as given: pins, time and trace follow the
script, and nothing else changes. -/
def State.after (s : State) (script : List (MicroOp × Bool)) (chan : Channel) (dioIn : List Bool) (draws : Nat) : State where
  cfg := s.cfg
  pins := scriptPins s.pins script
  chan := chan
  ctl := s.ctl
  env := { s.env with
    dioIn := dioIn
    draws := draws
    trace := (scriptEvents s.params.qCycles s.pins s.env.cycles script).reverse ++ s.env.trace
    cycles := scriptEnd s.params.qCycles s.env.cycles script }

/-- Two scripts one after the other. -/
theorem State.after_after (s : State) (a b : List (MicroOp × Bool)) (c c' : Channel) (d d' : List Bool) (n n' : Nat) :
    (s.after a c d n).after b c' d' n' = s.after (a ++ b) c' d' n' := by
  simp only [State.after, scriptEvents_append, scriptPins_append, scriptEnd_append, List.reverse_append,
    List.append_assoc]

@[simp] theorem State.after_chan (s : State) (l : List (MicroOp × Bool)) (c : Channel) (d : List Bool) (n : Nat) :
    (s.after l c d n).chan = c := rfl

@[simp] theorem State.after_cfg (s : State) (l : List (MicroOp × Bool)) (c : Channel) (d : List Bool) (n : Nat) :
    (s.after l c d n).cfg = s.cfg := rfl

@[simp] theorem State.after_ctl (s : State) (l : List (MicroOp × Bool)) (c : Channel) (d : List Bool) (n : Nat) :
    (s.after l c d n).ctl = s.ctl := rfl

@[simp] theorem State.after_pins (s : State) (l : List (MicroOp × Bool)) (c : Channel) (d : List Bool) (n : Nat) :
    (s.after l c d n).pins = scriptPins s.pins l := rfl

@[simp] theorem State.after_dioIn (s : State) (l : List (MicroOp × Bool)) (c : Channel) (d : List Bool) (n : Nat) :
    (s.after l c d n).env.dioIn = d := rfl

@[simp] theorem State.after_draws (s : State) (l : List (MicroOp × Bool)) (c : Channel) (d : List Bool) (n : Nat) :
    (s.after l c d n).env.draws = n := rfl

/-- The bit b[i] of a channel. -/
def Channel.bit (c : Channel) : Bool := (c.frame[c.byteIdx.toNat]'(c.byteIdx.isLt)).getLsbD c.bitIdx.toNat

theorem State.curBit_eq (s : State) : s.curBit = s.chan.bit := rfl

/-- The level of the next sample. -/
def nextLevel (d : List Bool) (n : Nat) : Bool := d.headD (Config.freeSample n)

theorem State.dioLevel_eq (s : State) : s.dioLevel = nextLevel s.env.dioIn s.env.draws := rfl

/-! One micro-op with its wait: the action, the move and the time, nothing else (R121 to R123). -/

theorem State.op_s1 (s : State) (v : Bool) : s.op .s1 = s.after [(.s1, v)]
    { s.chan with pos := some .s2, waitCnt := 0 } s.env.dioIn s.env.draws := rfl

theorem State.op_s2 (s : State) (v : Bool) : s.op .s2 = s.after [(.s2, v)]
    { s.chan with pos := some .s3, waitCnt := 0 } s.env.dioIn s.env.draws := rfl

theorem State.op_b1 (s : State) (v : Bool) : s.op .b1 = s.after [(.b1, v)]
    { s.chan with pos := some .b2, waitCnt := 0 } s.env.dioIn s.env.draws := rfl

theorem State.op_b2 (s : State) : s.op .b2 = s.after [(.b2, s.chan.bit)]
    { s.chan with pos := some .b3, waitCnt := 0 } s.env.dioIn s.env.draws := rfl

theorem State.op_a1 (s : State) (v : Bool) : s.op .a1 = s.after [(.a1, v)]
    { s.chan with pos := some .a2, waitCnt := 0 } s.env.dioIn s.env.draws := rfl

theorem State.op_a2 (s : State) (v : Bool) : s.op .a2 = s.after [(.a2, v)]
    { s.chan with pos := some .a3, waitCnt := 0 } s.env.dioIn s.env.draws := rfl

theorem State.op_a3 (s : State) (v : Bool) : s.op .a3 = s.after [(.a3, v)]
    { s.chan with pos := some .a4, waitCnt := 0 } s.env.dioIn s.env.draws := rfl

theorem State.op_a4 (s : State) (v : Bool) : s.op .a4 = s.after [(.a4, v)]
    { s.chan with pos := some .a5, waitCnt := 0 } s.env.dioIn s.env.draws := rfl

theorem State.op_a6 (s : State) (v : Bool) : s.op .a6 = s.after [(.a6, v)]
    { s.chan with pos := some .a7, waitCnt := 0 } s.env.dioIn s.env.draws := rfl

theorem State.op_p1 (s : State) (v : Bool) : s.op .p1 = s.after [(.p1, v)]
    { s.chan with pos := some .p2, waitCnt := 0 } s.env.dioIn s.env.draws := rfl

theorem State.op_p2 (s : State) (v : Bool) : s.op .p2 = s.after [(.p2, v)]
    { s.chan with pos := some .p3, waitCnt := 0 } s.env.dioIn s.env.draws := rfl

theorem State.op_s3 (s : State) (v : Bool) : s.op .s3 = s.after [(.s3, v)]
    { s.chan with pos := some .b1, bitIdx := 0, byteIdx := 0, waitCnt := 0 } s.env.dioIn s.env.draws := rfl

theorem State.op_p3 (s : State) (v : Bool) : s.op .p3 = s.after [(.p3, v)]
    { s.chan with pos := none, waitCnt := 0 } s.env.dioIn s.env.draws := rfl

theorem State.op_a5 (s : State) (v : Bool) : s.op .a5 = s.after [(.a5, v)]
    { s.chan with
      pos := some .a6, ackAcc := foldSample s.chan.ackAcc (nextLevel s.env.dioIn s.env.draws), waitCnt := 0 }
    s.env.dioIn.tail (s.env.draws + 1) := rfl

theorem State.op_b3 (s : State) (v : Bool) : s.op .b3 = s.after [(.b3, v)]
    (if s.chan.bitIdx.toNat < 7 then
      { s.chan with pos := some .b1, bitIdx := s.chan.bitIdx + 1, waitCnt := 0 }
    else { s.chan with pos := some .a1, waitCnt := 0 }) s.env.dioIn s.env.draws := by
  have hc : (s.act (actionOf s.curBit .b3)).chan = s.chan := rfl
  simp only [State.op, State.perform, State.moveOn, hc]
  split <;> rfl

theorem State.op_a7 (s : State) (v : Bool) : s.op .a7 = s.after [(.a7, v)]
    (if s.chan.byteIdx.toNat < s.chan.frameLen.toNat - 1 then
      { s.chan with pos := some .b1, bitIdx := 0, byteIdx := s.chan.byteIdx + 1, waitCnt := 0 }
    else { s.chan with pos := some .p1, waitCnt := 0 }) s.env.dioIn s.env.draws := by
  have hc : (s.act (actionOf s.curBit .a7)).chan = s.chan := rfl
  simp only [State.op, State.perform, State.moveOn, hc]
  split <;> rfl

/-- START (R124, R125). -/
theorem State.sendStart_eq (s : State) : s.sendStart = s.after [(.s1, false), (.s2, false), (.s3, false)]
    { s.chan with pos := some .b1, bitIdx := 0, byteIdx := 0, waitCnt := 0 } s.env.dioIn s.env.draws := by
  rw [State.sendStart, State.op_s1 s false, State.op_s2 _ false, State.op_s3 _ false]
  simp only [State.after_after, State.after_chan, State.after_dioIn, State.after_draws, List.cons_append, List.nil_append]

/-- STOP (R136). -/
theorem State.sendStop_eq (s : State) : s.sendStop = s.after [(.p1, false), (.p2, false), (.p3, false)]
    { s.chan with pos := none, waitCnt := 0 } s.env.dioIn s.env.draws := by
  rw [State.sendStop, State.op_p1 s false, State.op_p2 _ false, State.op_p3 _ false]
  simp only [State.after_after, State.after_chan, State.after_dioIn, State.after_draws, List.cons_append, List.nil_append]

/-- One data bit (R126, R127). -/
theorem State.sendBit_eq (s : State) : s.sendBit = s.after (bitScript s.chan.bit)
    (if s.chan.bitIdx.toNat < 7 then
      { s.chan with pos := some .b1, bitIdx := s.chan.bitIdx + 1, waitCnt := 0 }
    else { s.chan with pos := some .a1, waitCnt := 0 }) s.env.dioIn s.env.draws := by
  rw [State.sendBit, State.op_b1 s s.chan.bit, State.op_b2, State.op_b3 _ s.chan.bit]
  simp only [State.after_after, State.after_chan, State.after_dioIn, State.after_draws, List.cons_append,
    List.nil_append, bitScript, Channel.bit]

/-- The acknowledgment (R128 to R135): one sample folded into ACK_ACC, and the next byte or STOP. -/
theorem State.sendAck_eq (s : State) (v : Bool) : s.sendAck = s.after (ackScript v)
    (if s.chan.byteIdx.toNat < s.chan.frameLen.toNat - 1 then
      { s.chan with
        pos := some .b1, bitIdx := 0, byteIdx := s.chan.byteIdx + 1
        ackAcc := foldSample s.chan.ackAcc (nextLevel s.env.dioIn s.env.draws), waitCnt := 0 }
    else
      { s.chan with
        pos := some .p1, ackAcc := foldSample s.chan.ackAcc (nextLevel s.env.dioIn s.env.draws), waitCnt := 0 })
    s.env.dioIn.tail (s.env.draws + 1) := by
  rw [State.sendAck, State.op_a1 s v, State.op_a2 _ v, State.op_a3 _ v, State.op_a4 _ v, State.op_a5 _ v,
    State.op_a6 _ v, State.op_a7 _ v]
  simp only [State.after_after, State.after_chan, State.after_dioIn, State.after_draws, List.cons_append,
    List.nil_append, ackScript]

end Sys2Proof.Machine
end

