-- ==== Sys2Proof/Laws/Clock.lean ====
section
/-! SUPPORT. Laws/Clock.lean: the response, a micro-op, and a `clk_sys` cycle, each said once; a wait or a latency counted down
cycle by cycle; and all that one step can be. -/

namespace Sys2Proof.Machine

/-! What the constraints on a configuration give (R8, R9). -/

theorem State.qCycles_pos (s : State) : 1 ≤ s.params.qCycles := s.cfg.2.2.2.2.2.2.2.2.1.1

theorem State.issueLat_pos (s : State) : 1 ≤ s.params.issueLat := s.cfg.2.2.2.2.2.2.2.2.1.2.1

theorem State.respLat_pos (s : State) : 1 ≤ s.params.respLat := s.cfg.2.2.2.2.2.2.2.2.1.2.2

/-- Blank lights nothing (R9). -/
theorem segmentsOf_blank (c : Config) : segmentsOf c.val (blankRef c.val) = 0 := c.2.2.2.1

/-! The response (R161). -/

theorem State.respond_eq (s : State) (r : Resp) : s.respond r = { s with
    ctl := { s.ctl with lastResp := r, respCode := r, respValid := false, busy := false, stage := .resp, latCnt := 0 }
    env := { s.env with
      trace := .response r (s.env.cycles + s.params.respLat) :: s.env.trace
      cycles := s.env.cycles + s.params.respLat + 1 } } := rfl

/-! One micro-op (R121, R122). -/

/-- Moving on writes the position alone (R123, last column). -/
theorem State.moveOn_eq (s : State) (m : MicroOp) : ∃ p j i,
    s.moveOn m = { s with chan := { s.chan with pos := p, byteIdx := j, bitIdx := i } } := by
  cases m <;> simp only [State.moveOn]
  case b3 => split <;> exact ⟨_, _, _, rfl⟩
  case a7 => split <;> exact ⟨_, _, _, rfl⟩
  all_goals exact ⟨_, _, _, rfl⟩

/-- An action writes pins, or folds and draws one sample. -/
theorem State.act_eq (s : State) (a : Action) : ∃ p k d n,
    s.act a = { s with pins := p, chan := { s.chan with ackAcc := k }, env := { s.env with dioIn := d, draws := n } } := by
  cases a <;> exact ⟨_, _, _, _, rfl⟩

/-- What a micro-op may write: pins, position, ACK_ACC, the wait, its sample, its event and its cycle. -/
theorem State.perform_eq (s : State) (m : MicroOp) : ∃ p q j i k d n e,
    s.perform m = { s with
      pins := p
      chan := { s.chan with pos := q, byteIdx := j, bitIdx := i, ackAcc := k, waitCnt := waitOf m * s.params.qCycles }
      env := { s.env with dioIn := d, draws := n, trace := e :: s.env.trace, cycles := s.env.cycles + 1 } } := by
  obtain ⟨p, k, d, n, h1⟩ := State.act_eq s (actionOf s.curBit m)
  obtain ⟨q, j, i, h2⟩ := State.moveOn_eq (s.act (actionOf s.curBit m)) m
  rw [State.perform, h2, h1]
  exact ⟨p, q, j, i, k, d, n, _, rfl⟩

@[simp] theorem State.perform_cfg (s : State) (m : MicroOp) : (s.perform m).cfg = s.cfg := by
  obtain ⟨_, _, _, _, _, _, _, _, h⟩ := State.perform_eq s m; rw [h]

@[simp] theorem State.perform_ctl (s : State) (m : MicroOp) : (s.perform m).ctl = s.ctl := by
  obtain ⟨_, _, _, _, _, _, _, _, h⟩ := State.perform_eq s m; rw [h]

@[simp] theorem State.perform_rstIn (s : State) (m : MicroOp) : (s.perform m).env.rstIn = s.env.rstIn := by
  obtain ⟨_, _, _, _, _, _, _, _, h⟩ := State.perform_eq s m; rw [h]

@[simp] theorem State.perform_reqIn (s : State) (m : MicroOp) : (s.perform m).env.reqIn = s.env.reqIn := by
  obtain ⟨_, _, _, _, _, _, _, _, h⟩ := State.perform_eq s m; rw [h]

@[simp] theorem State.perform_waitCnt (s : State) (m : MicroOp) :
    (s.perform m).chan.waitCnt = waitOf m * s.params.qCycles := by
  obtain ⟨_, _, _, _, _, _, _, _, h⟩ := State.perform_eq s m; rw [h]

@[simp] theorem State.perform_frame (s : State) (m : MicroOp) : (s.perform m).chan.frame = s.chan.frame := by
  obtain ⟨_, _, _, _, _, _, _, _, h⟩ := State.perform_eq s m; rw [h]

@[simp] theorem State.perform_frameLen (s : State) (m : MicroOp) : (s.perform m).chan.frameLen = s.chan.frameLen := by
  obtain ⟨_, _, _, _, _, _, _, _, h⟩ := State.perform_eq s m; rw [h]

/-! A cycle. -/

/-- With no reset pending, a cycle is a live cycle. -/
theorem State.tick_live (s : State) (h : s.env.rstIn = []) : s.tick = s.liveCycle := by
  have h1 : s.rstLevel = false := by rw [State.rstLevel, h]; rfl
  have h2 : s.popRst = s := by
    obtain ⟨cfg, pins, chan, ctl, env⟩ := s
    obtain ⟨a, b, c, d, e, f, g⟩ := env
    simp only at h
    subst h
    rfl
  rw [State.tick, h1, h2]
  rfl

/-- A cycle in which S1 is awaited. -/
theorem State.tick_issue (s : State) (h : s.env.rstIn = []) (hb : s.ctl.busy = true) (hv : s.ctl.respValid = false)
    (hs : s.ctl.stage = .issue) : s.tick = s.issueCycle := by
  rw [State.tick_live s h, State.liveCycle, hb, hv, hs]
  rfl

/-- A cycle of a transaction being sent. -/
theorem State.tick_run (s : State) (h : s.env.rstIn = []) (hb : s.ctl.busy = true) (hv : s.ctl.respValid = false)
    (hs : s.ctl.stage = .run) : s.tick = s.runCycle := by
  rw [State.tick_live s h, State.liveCycle, hb, hv, hs]
  rfl

/-- A cycle of a response being prepared. -/
theorem State.tick_resp (s : State) (h : s.env.rstIn = []) (hb : s.ctl.busy = true) (hv : s.ctl.respValid = false)
    (hs : s.ctl.stage = .resp) : s.tick = s.respCycle := by
  rw [State.tick_live s h, State.liveCycle, hb, hv, hs]
  rfl

/-- The response cycle. -/
theorem State.tick_posted (s : State) (h : s.env.rstIn = []) (hb : s.ctl.busy = true) (hv : s.ctl.respValid = true) :
    s.tick = s.closeResponse := by
  rw [State.tick_live s h, State.liveCycle, hb, hv]
  rfl

/-- n cycles of WAITCNT counting down, before a micro-op. -/
theorem State.tick_wait : ∀ (n : Nat) (s : State), s.env.rstIn = [] → s.ctl.busy = true → s.ctl.respValid = false →
    s.ctl.stage = .run → s.chan.pos ≠ none → n ≤ s.chan.waitCnt →
    State.tick^[n] s = { s with
      chan := { s.chan with waitCnt := s.chan.waitCnt - n }, env := { s.env with cycles := s.env.cycles + n } } := by
  intro n
  induction n with
  | zero => intro s _ _ _ _ _ _; rfl
  | succ n ih =>
    intro s hr hb hv hs hp hn
    have h1 : s.tick = s.countWait := by
      rw [State.tick_run s hr hb hv hs, State.runCycle, if_pos (by omega), if_neg (fun h => hp h.2)]
    rw [Function.iterate_succ_apply, h1, ih s.countWait hr hb hv hs hp (by show n ≤ s.chan.waitCnt - 1; omega)]
    show ({ s with
      chan := { s.chan with waitCnt := s.chan.waitCnt - 1 - n }
      env := { s.env with cycles := s.env.cycles + 1 + n } } : State) = _
    rw [Nat.sub_sub, Nat.add_assoc, Nat.add_comm 1 n]

/-- n cycles of RESP_LAT counting down. -/
theorem State.tick_respLat : ∀ (n : Nat) (s : State), s.env.rstIn = [] → s.ctl.busy = true → s.ctl.respValid = false →
    s.ctl.stage = .resp → n ≤ s.ctl.latCnt →
    State.tick^[n] s = { s with
      ctl := { s.ctl with latCnt := s.ctl.latCnt - n }, env := { s.env with cycles := s.env.cycles + n } } := by
  intro n
  induction n with
  | zero => intro s _ _ _ _ _; rfl
  | succ n ih =>
    intro s hr hb hv hs hn
    have h1 : s.tick = s.countLatency := by rw [State.tick_resp s hr hb hv hs, State.respCycle, if_pos (by omega)]
    rw [Function.iterate_succ_apply, h1, ih s.countLatency hr hb hv hs (by show n ≤ s.ctl.latCnt - 1; omega)]
    show ({ s with
      ctl := { s.ctl with latCnt := s.ctl.latCnt - 1 - n }
      env := { s.env with cycles := s.env.cycles + 1 + n } } : State) = _
    rw [Nat.sub_sub, Nat.add_assoc, Nat.add_comm 1 n]

/-- n cycles of ISSUE_LAT counting down, S1 not due yet. -/
theorem State.tick_issueLat : ∀ (n : Nat) (s : State), s.env.rstIn = [] → s.ctl.busy = true → s.ctl.respValid = false →
    s.ctl.stage = .issue → n < s.ctl.latCnt →
    State.tick^[n] s = { s with
      ctl := { s.ctl with latCnt := s.ctl.latCnt - n }, env := { s.env with cycles := s.env.cycles + n } } := by
  intro n
  induction n with
  | zero => intro s _ _ _ _ _; rfl
  | succ n ih =>
    intro s hr hb hv hs hn
    have h1 : s.tick = s.countLatency := by
      rw [State.tick_issue s hr hb hv hs, State.issueCycle, if_pos (by omega), State.launch,
        if_neg (by rintro ⟨h, -⟩; have : s.ctl.latCnt - 1 = 0 := h; omega)]
    rw [Function.iterate_succ_apply, h1, ih s.countLatency hr hb hv hs (by show n < s.ctl.latCnt - 1; omega)]
    show ({ s with
      ctl := { s.ctl with latCnt := s.ctl.latCnt - 1 - n }
      env := { s.env with cycles := s.env.cycles + 1 + n } } : State) = _
    rw [Nat.sub_sub, Nat.add_assoc, Nat.add_comm 1 n]

/-- n cycles of the gap counting down, S1 not due yet. -/
theorem State.tick_gap : ∀ (n : Nat) (s : State), s.env.rstIn = [] → s.ctl.busy = true → s.ctl.respValid = false →
    s.ctl.stage = .issue → s.ctl.latCnt = 0 → n < s.chan.waitCnt →
    State.tick^[n] s = { s with
      chan := { s.chan with waitCnt := s.chan.waitCnt - n }, env := { s.env with cycles := s.env.cycles + n } } := by
  intro n
  induction n with
  | zero => intro s _ _ _ _ _ _; rfl
  | succ n ih =>
    intro s hr hb hv hs hl hn
    have h1 : s.tick = s.countWait := by
      rw [State.tick_issue s hr hb hv hs, State.issueCycle, if_neg (by omega), State.launch,
        if_neg (by rintro ⟨-, h⟩; have : s.chan.waitCnt - 1 = 0 := h; omega)]
    rw [Function.iterate_succ_apply, h1, ih s.countWait hr hb hv hs hl (by show n < s.chan.waitCnt - 1; omega)]
    show ({ s with
      chan := { s.chan with waitCnt := s.chan.waitCnt - 1 - n }
      env := { s.env with cycles := s.env.cycles + 1 + n } } : State) = _
    rw [Nat.sub_sub, Nat.add_assoc, Nat.add_comm 1 n]

/-- An awaited S1 comes due after exactly the latency or the gap that is left (R146). -/
theorem State.tick_launch (s : State) (hr : s.env.rstIn = []) (hb : s.ctl.busy = true) (hv : s.ctl.respValid = false)
    (hs : s.ctl.stage = .issue) (h : s.ctl.latCnt = 0 ∧ 0 < s.chan.waitCnt ∨ 0 < s.ctl.latCnt ∧ s.chan.waitCnt = 0) :
    State.tick^[s.ctl.latCnt + s.chan.waitCnt] s = { s with
      chan := { s.chan with pos := some .s1, waitCnt := 0 }
      ctl := { s.ctl with stage := .run, latCnt := 0 }
      env := { s.env with cycles := s.env.cycles + (s.ctl.latCnt + s.chan.waitCnt) } } := by
  rcases h with ⟨hl, hw⟩ | ⟨hl, hw⟩
  · obtain ⟨n, hn⟩ : ∃ n, s.chan.waitCnt = n + 1 := ⟨s.chan.waitCnt - 1, by omega⟩
    rw [hl, hn, Nat.zero_add, Function.iterate_succ_apply', State.tick_gap n s hr hb hv hs hl (by omega), hn,
      show n + 1 - n = 1 by omega]
    refine Eq.trans (State.tick_issue _ (by exact hr) (by exact hb) (by exact hv) (by exact hs)) ?_
    rw [State.issueCycle, if_neg (by show ¬ 0 < s.ctl.latCnt; omega), State.launch, if_pos ⟨hl, rfl⟩]
    simp only [State.countWait, State.pass, State.goTo, hl, Nat.add_assoc, Nat.sub_self]
  · obtain ⟨n, hn⟩ : ∃ n, s.ctl.latCnt = n + 1 := ⟨s.ctl.latCnt - 1, by omega⟩
    rw [hw, hn, Nat.add_zero, Function.iterate_succ_apply', State.tick_issueLat n s hr hb hv hs (by omega), hn,
      show n + 1 - n = 1 by omega]
    refine Eq.trans (State.tick_issue _ (by exact hr) (by exact hb) (by exact hv) (by exact hs)) ?_
    rw [State.issueCycle, if_pos Nat.zero_lt_one, State.launch, if_pos ⟨rfl, hw⟩]
    simp only [State.countLatency, State.pass, State.goTo, hw, Nat.add_assoc, Nat.sub_self]

/-- All that a cycle can be. -/
theorem State.tick_cases (s : State) :
    (s.rstLevel = true ∧ s.tick = s.resetCycle) ∨
    (s.rstLevel = false ∧ s.ctl.busy = false ∧ s.tick = s.popRst.readyCycle) ∨
    (s.rstLevel = false ∧ s.ctl.busy = true ∧ s.ctl.respValid = true ∧ s.tick = s.popRst.closeResponse) ∨
    (s.rstLevel = false ∧ s.ctl.busy = true ∧ s.ctl.respValid = false ∧
      ((s.ctl.stage = .boot ∧ s.tick = s.popRst.startInit.pass 1) ∨
        (s.ctl.stage = .issue ∧ s.tick = s.popRst.issueCycle) ∨ (s.ctl.stage = .run ∧ s.tick = s.popRst.runCycle) ∨
        (s.ctl.stage = .resp ∧ s.tick = s.popRst.respCycle))) := by
  cases hr : s.rstLevel with
  | true => exact .inl ⟨rfl, by rw [State.tick, hr]; rfl⟩
  | false =>
    have ht : s.tick = s.popRst.liveCycle := by rw [State.tick, hr]; rfl
    have e : s.popRst.ctl = s.ctl := rfl
    rw [ht, State.liveCycle, e]
    cases hb : s.ctl.busy with
    | false => exact .inr (.inl ⟨rfl, rfl, rfl⟩)
    | true =>
      cases hv : s.ctl.respValid with
      | true => exact .inr (.inr (.inl ⟨rfl, rfl, rfl, rfl⟩))
      | false =>
        refine .inr (.inr (.inr ⟨rfl, rfl, rfl, ?_⟩))
        cases s.ctl.stage with
        | boot => exact .inl ⟨rfl, rfl⟩
        | issue => exact .inr (.inl ⟨rfl, rfl⟩)
        | run => exact .inr (.inr (.inl ⟨rfl, rfl⟩))
        | resp => exact .inr (.inr (.inr ⟨rfl, rfl⟩))

/-- All that a step can be: a cycle, the instruction fetched, or the construction after reset. -/
theorem step_cases (s : State) :
    step s = .next s.tick ∨
    (s.env.grain = .request ∧ s.rstLevel = false ∧ ∃ i t, s.popRst.fetch = some (i, t) ∧ step s = exec i t) ∨
    (s.env.grain = .request ∧ s.rstLevel = false ∧ s.popRst.fetch = none ∧ s.atBoot = true ∧
      step s = .next s.popRst.construct) := by
  unfold step
  cases hg : s.env.grain with
  | cycle => exact .inl rfl
  | request =>
    cases hr : s.rstLevel with
    | true => exact .inl rfl
    | false =>
      cases hf : s.popRst.fetch with
      | some it => exact .inr (.inl ⟨rfl, rfl, it.1, it.2, rfl, rfl⟩)
      | none =>
        cases hb : s.atBoot with
        | true => exact .inr (.inr ⟨rfl, rfl, rfl, rfl, rfl⟩)
        | false => exact .inl rfl

end Sys2Proof.Machine
end

