-- ==== Sys2Proof/Laws/Send.lean ====
section
/-! SUPPORT. Laws/Send.lean: what a byte and a whole transaction do, each said once as an equation for the whole state. -/

namespace Sys2Proof.Machine

theorem levelsOfByte_drop (b : Byte) {k : Nat} (h : k < 8) :
    (levelsOfByte b).drop k = b.getLsbD k :: (levelsOfByte b).drop (k + 1) := by
  rw [List.drop_eq_getElem_cons (by simpa [levelsOfByte] using h)]
  simp [levelsOfByte]

theorem bitIdx_lt {k : Nat} (h : k < 7) : ((BitVec.ofNat 3 k).toNat < 7) = True := by
  simp only [BitVec.toNat_ofNat, eq_iff_iff, iff_true]; omega

/-- The data bits of a byte from bit k on (R127). -/
theorem State.sendBits_eq : ∀ (n k : Nat) (s : State), s.chan.bitIdx = BitVec.ofNat 3 k → k + n = 7 →
    State.sendBits (n + 1) s = s.after (((levelsOfByte s.curByte).drop k).flatMap bitScript)
      { s.chan with pos := some .a1, bitIdx := 7, waitCnt := 0 } s.env.dioIn s.env.draws := by
  intro n
  induction n with
  | zero =>
    intro k s hk hn
    obtain rfl : k = 7 := by omega
    have hlt : ¬ s.chan.bitIdx.toNat < 7 := by rw [hk]; decide
    have hb : s.chan.bit = s.curByte.getLsbD 7 := by simp only [Channel.bit, State.curByte, hk]; rfl
    rw [levelsOfByte_drop s.curByte (by omega)]
    have h8 : (levelsOfByte s.curByte).drop (7 + 1) = [] := rfl
    simp only [State.sendBits, State.sendBit_eq, if_neg hlt, hb, h8, List.flatMap_cons, List.flatMap_nil,
      List.append_nil]
    congr 2
  | succ n ih =>
    intro k s hk hn
    have hlt : s.chan.bitIdx.toNat < 7 := by rw [hk]; simp only [BitVec.toNat_ofNat]; omega
    have hb : s.chan.bit = s.curByte.getLsbD k := by
      have : (BitVec.ofNat 3 k).toNat = k := by simp only [BitVec.toNat_ofNat]; omega
      simp only [Channel.bit, State.curByte, hk, this]
    have hnext : s.chan.bitIdx + 1 = BitVec.ofNat 3 (k + 1) := by rw [hk]; simp [BitVec.ofNat_add]
    rw [State.sendBits, State.sendBit_eq, if_pos hlt, ih (k + 1) _ (by simpa using hnext) (by omega),
      State.after_after, levelsOfByte_drop s.curByte (show k < 8 by omega), List.flatMap_cons, hb]
    rfl

/-- The channel after a byte. -/
def Channel.afterByte (c : Channel) (d : List Bool) (n : Nat) : Channel :=
  if c.byteIdx.toNat < c.frameLen.toNat - 1 then
    { c with
      pos := some .b1, bitIdx := 0, byteIdx := c.byteIdx + 1, ackAcc := foldSample c.ackAcc (nextLevel d n), waitCnt := 0 }
  else { c with pos := some .p1, bitIdx := 7, ackAcc := foldSample c.ackAcc (nextLevel d n), waitCnt := 0 }

/-- One byte: its bits LSB first, one sample, and the next byte or STOP (R126 to R135). -/
theorem State.sendByte_eq (s : State) (h : s.chan.bitIdx = 0) : s.sendByte =
    s.after (byteScript s.curByte) (s.chan.afterByte s.env.dioIn s.env.draws) s.env.dioIn.tail (s.env.draws + 1) := by
  rw [State.sendByte, State.sendBits_eq 7 0 s (by simpa using h) rfl, State.sendAck_eq _ (s.curByte.getLsbD 7),
    State.after_after]
  rfl

/-- A wire command's byte, shifted out at BYTEIDX. -/
theorem State.transmit_eq (s : State) (v : Byte) : s.transmit v =
    s.after (byteScript v) ((s.placeByte v).chan.afterByte s.env.dioIn s.env.draws) s.env.dioIn.tail
      (s.env.draws + 1) := by
  have hc : (s.placeByte v).curByte = v := by
    simp [State.curByte, State.placeByte]
  rw [State.transmit, State.sendByte_eq _ rfl, hc]
  rfl

/-- m samples folded into a running AND. -/
def foldAcks : Nat → Bool → List Bool → Nat → Bool
  | 0, acc, _, _ => acc
  | m + 1, acc, d, n => foldAcks m (foldSample acc (nextLevel d n)) d.tail (n + 1)

/-- The bytes of the frame from byte j on, m + 1 of them up to the frame's end. -/
theorem State.sendBytes_eq : ∀ (m j : Nat) (s : State), s.chan.bitIdx = 0 → s.chan.byteIdx.toNat = j →
    j + m + 1 = s.chan.frameLen.toNat → s.chan.frameLen.toNat ≤ 4 →
    State.sendBytes (m + 1) s = s.after (((s.chan.frame.toList.drop j).take (m + 1)).flatMap byteScript)
      { s.chan with
        pos := some .p1, bitIdx := 7, byteIdx := BitVec.ofNat 2 (j + m)
        ackAcc := foldAcks (m + 1) s.chan.ackAcc s.env.dioIn s.env.draws, waitCnt := 0 }
      (s.env.dioIn.drop (m + 1)) (s.env.draws + (m + 1)) := by
  intro m
  induction m with
  | zero =>
    intro j s hb hj hl h4
    have hdrop : (s.chan.frame.toList.drop j).take (0 + 1) = [s.curByte] := by
      rw [List.drop_eq_getElem_cons (by simp; omega)]
      simp [State.curByte, hj]
    have hidx : s.chan.byteIdx = BitVec.ofNat 2 (j + 0) := by
      apply BitVec.eq_of_toNat_eq
      rw [hj, BitVec.toNat_ofNat]
      omega
    have hlast : ¬ s.chan.byteIdx.toNat < s.chan.frameLen.toNat - 1 := by omega
    rw [State.sendBytes, State.sendBytes, State.sendByte_eq s hb, Channel.afterByte, if_neg hlast, hdrop]
    simp only [List.flatMap_cons, List.flatMap_nil, List.append_nil, foldAcks, List.drop_one, ← hidx, Nat.zero_add]
  | succ m ih =>
    intro j s hb hj hl h4
    have hdrop : (s.chan.frame.toList.drop j).take (m + 1 + 1) =
        s.curByte :: (s.chan.frame.toList.drop (j + 1)).take (m + 1) := by
      rw [List.drop_eq_getElem_cons (by simp; omega)]
      simp [State.curByte, hj]
    have hmore : s.chan.byteIdx.toNat < s.chan.frameLen.toNat - 1 := by omega
    have hnext : (s.chan.byteIdx + 1).toNat = j + 1 := by
      rw [BitVec.toNat_add, hj]
      simp only [BitVec.ofNat_eq_ofNat, BitVec.toNat_ofNat]
      omega
    rw [State.sendBytes, State.sendByte_eq s hb, Channel.afterByte, if_pos hmore,
      ih (j + 1) _ rfl (by simpa using hnext) (by simp only [State.after_chan]; omega)
        (by simpa only [State.after_chan] using h4), State.after_after, hdrop]
    simp only [State.after_chan, State.after_dioIn, State.after_draws, List.flatMap_cons, foldAcks, List.drop_tail,
      Nat.add_assoc, Nat.add_comm 1]

/-- The micro-ops of a whole transaction, with their bits. -/
def sendScript (bytes : List Byte) : List (MicroOp × Bool) :=
  [(.s1, false), (.s2, false), (.s3, false)] ++ bytes.flatMap byteScript ++ [(.p1, false), (.p2, false), (.p3, false)]

theorem sendScript_ops (bytes : List Byte) : (sendScript bytes).map Prod.fst = frameScript bytes := by
  simp [sendScript, frameScript, List.map_flatMap]

/-- The frame buffer after `send` has written it. -/
def loadedFrame (f : Vector Byte 4) (bytes : List Byte) : Vector Byte 4 :=
  #v[bytes.getD 0 f[0], bytes.getD 1 f[1], bytes.getD 2 f[2], bytes.getD 3 f[3]]

theorem loadedFrame_take (f : Vector Byte 4) : ∀ bytes : List Byte, bytes.length ≤ 4 →
    (loadedFrame f bytes).toList.take bytes.length = bytes
  | [], _ => rfl
  | [_], _ => rfl
  | [_, _], _ => rfl
  | [_, _, _], _ => rfl
  | [_, _, _, _], _ => rfl
  | _ :: _ :: _ :: _ :: _ :: _, h => absurd h (by simp only [List.length_cons]; omega)

/-- `send(bytes)` for 1 to 4 bytes (R137): the micro-ops of R137 in order, ACK_ACC the AND of every sample, IDLE at the end,
and nothing else changed. -/
theorem State.send_eq (s : State) (bytes : List Byte) (h1 : 1 ≤ bytes.length) (h4 : bytes.length ≤ 4) :
    s.send bytes = s.after (sendScript bytes)
      { s.chan with
        pos := none, bitIdx := 7, byteIdx := BitVec.ofNat 2 (bytes.length - 1)
        frame := loadedFrame s.chan.frame bytes, frameLen := BitVec.ofNat 3 bytes.length
        ackAcc := foldAcks bytes.length true s.env.dioIn s.env.draws, waitCnt := 0 }
      (s.env.dioIn.drop bytes.length) (s.env.draws + bytes.length) := by
  obtain ⟨m, hm⟩ : ∃ m, bytes.length = m + 1 := ⟨bytes.length - 1, by omega⟩
  have hlen : (BitVec.ofNat 3 bytes.length).toNat = bytes.length := by rw [BitVec.toNat_ofNat]; omega
  rw [State.send, State.sendStart_eq, State.sendStop_eq]
  have hs := State.sendBytes_eq m 0
    (((s.loadFrame bytes).goTo .s1).after [(.s1, false), (.s2, false), (.s3, false)]
      { ((s.loadFrame bytes).goTo .s1).chan with pos := some .b1, bitIdx := 0, byteIdx := 0, waitCnt := 0 }
      ((s.loadFrame bytes).goTo .s1).env.dioIn ((s.loadFrame bytes).goTo .s1).env.draws)
    rfl rfl (by simp only [State.after_chan]; show 0 + m + 1 = (BitVec.ofNat 3 bytes.length).toNat; omega)
    (by simp only [State.after_chan]; show (BitVec.ofNat 3 bytes.length).toNat ≤ 4; omega)
  have htake : (((s.loadFrame bytes).goTo .s1).chan.frame.toList.drop 0).take (m + 1) = bytes := by
    rw [← hm]; exact loadedFrame_take s.chan.frame bytes h4
  rw [hm, hs]
  simp only [State.after_chan, State.after_dioIn, State.after_draws, State.after_after, htake]
  rw [Nat.zero_add, Nat.add_sub_cancel, show BitVec.ofNat 3 (m + 1) = BitVec.ofNat 3 bytes.length by rw [hm]]
  rfl

/-- The running AND of m samples is true iff every one of them reads LOW. -/
theorem foldAcks_eq : ∀ (m : Nat) (acc : Bool) (d : List Bool) (n : Nat), foldAcks m acc d n =
    (acc && (List.range m).all fun k => !(d.getD k (Config.freeSample (n + k)))) := by
  intro m
  induction m with
  | zero => intro acc d n; simp [foldAcks]
  | succ m ih =>
    intro acc d n
    have hshift : ∀ k, d.tail.getD k (Config.freeSample (n + 1 + k)) = d.getD (k + 1) (Config.freeSample (n + (k + 1))) := by
      intro k
      rw [show n + 1 + k = n + (k + 1) by omega]
      cases d <;> simp
    have h0 : nextLevel d n = d.getD 0 (Config.freeSample (n + 0)) := by cases d <;> rfl
    rw [foldAcks, ih, List.range_succ_eq_map, List.all_cons, List.all_map]
    simp only [Function.comp_def, hshift, foldSample, h0, Bool.and_assoc, Nat.succ_eq_add_one]

/-- `send` returns the AND of its bytes' acknowledgments (R26, R132). -/
theorem foldAcks_acked (s : State) (m : Nat) : foldAcks m true s.env.dioIn s.env.draws = s.acked m := by
  rw [foldAcks_eq, Bool.true_and]
  rfl

end Sys2Proof.Machine
end

