-- ==== Sys2Proof/Laws/Render.lean ====
section
/-! SUPPORT. Laws/Render.lean: what a transaction of a request, a render and three renders do, each said once. -/

namespace Sys2Proof.Machine

/-! Samples: taking a first ones and then b more is taking a + b. -/

theorem State.sampleAt_drop (s t : State) (a k : Nat) (hd : t.env.dioIn = s.env.dioIn.drop a)
    (hn : t.env.draws = s.env.draws + a) : t.sampleAt k = s.sampleAt (a + k) := by
  rw [State.sampleAt, State.sampleAt, hd, hn, Nat.add_assoc]
  simp only [List.getD_eq_getElem?_getD, List.getElem?_drop]

theorem State.acked_add (s t : State) (a b : Nat) (hd : t.env.dioIn = s.env.dioIn.drop a)
    (hn : t.env.draws = s.env.draws + a) : (s.acked a && t.acked b) = s.acked (a + b) := by
  simp only [State.acked, List.range_add, List.all_append, List.all_map, Function.comp_def,
    State.sampleAt_drop s t a _ hd hn]

/-- The samples of a state depend on its inputs alone. -/
theorem State.acked_congr (s t : State) (n : Nat) (hd : t.env.dioIn = s.env.dioIn) (hn : t.env.draws = s.env.draws) :
    t.acked n = s.acked n := by
  simp only [State.acked, State.sampleAt, hd, hn]

/-! Scripts. -/

theorem scriptPins_send (p : Pins) (bytes : List Byte) (h : bytes ≠ []) : scriptPins p (sendScript bytes) = Pins.idle := by
  obtain ⟨l, x, rfl⟩ : ∃ l x, bytes = l ++ [x] := ⟨bytes.dropLast, bytes.getLast h, (List.dropLast_append_getLast h).symm⟩
  simp only [sendScript, List.flatMap_append, List.flatMap_cons, List.flatMap_nil, List.append_nil, byteScript,
    scriptPins_append, ackScript, scriptPins, pinsAfter, actionOf, Pins.idle]

/-- The events of the transactions of a request, from the pins p and the cycle c on; g is the gap between two of them. -/
def framesEvents (q g : Nat) : Bool → Pins → Nat → List (List Byte) → List PortEvent
  | _, _, _, [] => []
  | first, p, c, f :: r =>
    scriptEvents q p (if first then c else c + g) (sendScript f) ++
      framesEvents q g false Pins.idle (scriptEnd q (if first then c else c + g) (sendScript f)) r

/-- The cycle in which they have ended. -/
def framesEnd (q g : Nat) : Bool → Nat → List (List Byte) → Nat
  | _, c, [] => c
  | first, c, f :: r => framesEnd q g false (scriptEnd q (if first then c else c + g) (sendScript f)) r

theorem framesEvents_append (q g : Nat) : ∀ (a b : List (List Byte)) (first : Bool) (p : Pins) (c : Nat), a ≠ [] →
    framesEvents q g first p c (a ++ b) =
      framesEvents q g first p c a ++ framesEvents q g false Pins.idle (framesEnd q g first c a) b := by
  intro a
  induction a with
  | nil => intro b first p c h; exact absurd rfl h
  | cons f r ih =>
    intro b first p c _
    by_cases hr : r = []
    · subst hr; simp [framesEvents, framesEnd]
    · simp only [List.cons_append, framesEvents, framesEnd, ih b _ _ _ hr, List.append_assoc]

theorem framesEnd_append (q g : Nat) : ∀ (a b : List (List Byte)) (first : Bool) (c : Nat), a ≠ [] →
    framesEnd q g first c (a ++ b) = framesEnd q g false (framesEnd q g first c a) b := by
  intro a
  induction a with
  | nil => intro b first c h; exact absurd rfl h
  | cons f r ih =>
    intro b first c _
    by_cases hr : r = []
    · subst hr; simp [framesEnd]
    · simp only [List.cons_append, framesEnd, ih b _ _ hr]

/-- From s to t the transactions `frames` were sent, the first of the request or not: the whole of what changes. -/
structure Sends (s t : State) (first : Bool) (frames : List (List Byte)) (ctl : Control) : Prop where
  cfg : t.cfg = s.cfg
  pins : t.pins = Pins.idle
  pos : t.chan.pos = none
  wait : t.chan.waitCnt = 0
  frameLen : 1 ≤ t.chan.frameLen.toNat ∧ t.chan.frameLen.toNat ≤ 4
  ctl : t.ctl = ctl
  env : t.env = { s.env with
    dioIn := s.env.dioIn.drop frames.flatten.length
    draws := s.env.draws + frames.flatten.length
    trace := (framesEvents s.params.qCycles (s.params.gapQ * s.params.qCycles) first s.pins s.env.cycles frames).reverse ++
      s.env.trace
    cycles := framesEnd s.params.qCycles (s.params.gapQ * s.params.qCycles) first s.env.cycles frames }

theorem Sends.dioIn {s t : State} {first : Bool} {a : List (List Byte)} {c : Control} (h : Sends s t first a c) :
    t.env.dioIn = s.env.dioIn.drop a.flatten.length := by rw [h.env]

theorem Sends.draws {s t : State} {first : Bool} {a : List (List Byte)} {c : Control} (h : Sends s t first a c) :
    t.env.draws = s.env.draws + a.flatten.length := by rw [h.env]

/-- One run of transactions after another; registers may be written between them. -/
theorem Sends.trans {s t t' u : State} {first : Bool} {a b : List (List Byte)} {c c' : Control} (h1 : Sends s t first a c)
    (hc : t'.cfg = t.cfg) (hp : t'.pins = t.pins) (he : t'.env = t.env) (h2 : Sends t' u false b c') (ha : a ≠ []) :
    Sends s u first (a ++ b) c' where
  cfg := h2.cfg.trans (hc.trans h1.cfg)
  pins := h2.pins
  pos := h2.pos
  wait := h2.wait
  frameLen := h2.frameLen
  ctl := h2.ctl
  env := by
    have hpar : t'.params = s.params := by rw [State.params, hc, h1.cfg]
    rw [h2.env, he, hp, hpar, h1.env, h1.pins, framesEvents_append _ _ _ _ _ _ _ ha, framesEnd_append _ _ _ _ _ _ ha]
    simp only [List.flatten_append, List.length_append, List.drop_drop, Nat.add_assoc, List.reverse_append,
      List.append_assoc]

/-- One transaction of a request (R137, R146): its result is folded into OP_ACK. -/
theorem State.sendFrame_sends (s : State) (first : Bool) (tx : Fin 3) (bytes : List Byte) (h1 : 1 ≤ bytes.length)
    (h4 : bytes.length ≤ 4) : Sends s (s.sendFrame first tx bytes) first [bytes]
      { s.ctl with curTx := tx, opAck := s.ctl.opAck && s.acked bytes.length } := by
  have hne : bytes ≠ [] := by rintro rfl; simp at h1
  have hlen : (BitVec.ofNat 3 bytes.length).toNat = bytes.length := by rw [BitVec.toNat_ofNat]; omega
  have hs := State.send_eq ((if first then s else s.gap).setCurTx tx) bytes h1 h4
  have hd : ((if first then s else s.gap).setCurTx tx).env.dioIn = s.env.dioIn := by split <;> rfl
  have hn : ((if first then s else s.gap).setCurTx tx).env.draws = s.env.draws := by split <;> rfl
  have ha : (((if first then s else s.gap).setCurTx tx).send bytes).chan.ackAcc = s.acked bytes.length := by
    rw [hs, State.after_chan, hd, hn, foldAcks_acked]
  refine ⟨?_, ?_, ?_, ?_, ?_, ?_, ?_⟩
  · rw [State.sendFrame, State.foldOpAck_cfg, hs]; split <;> rfl
  · rw [State.sendFrame, State.foldOpAck_pins, hs, State.after_pins, scriptPins_send _ _ hne]
  · rw [State.sendFrame, State.foldOpAck_chan, hs, State.after_chan]
  · rw [State.sendFrame, State.foldOpAck_chan, hs, State.after_chan]
  · rw [State.sendFrame, State.foldOpAck_chan, hs, State.after_chan]; simp only [hlen]; exact ⟨h1, h4⟩
  · rw [State.sendFrame, State.foldOpAck_ctl, ha, hs, State.after_ctl]; split <;> rfl
  · rw [State.sendFrame, State.foldOpAck_env, hs]
    simp only [State.after, framesEvents, framesEnd, List.append_nil, List.flatten_cons, List.flatten_nil]
    split <;> rfl

theorem renderFrames_flatten_length (p : Params) (b : BitVec 3) (pos : Fin 3) (pat : Byte) :
    (renderFrames p b pos pat).flatten.length = 4 := by
  rw [renderFrames]; split <;> rfl

theorem renderFrames_ne (p : Params) (b : BitVec 3) (pos : Fin 3) (pat : Byte) : renderFrames p b pos pat ≠ [] := by
  rw [renderFrames]; split <;> simp

/-- A render (R163): its transactions, the AND of its four acknowledgments folded into OP_ACK. -/
theorem State.render_sends (s : State) (first : Bool) (pos : Fin 3) (pat : Byte) :
    Sends s (s.render first pos pat) first (renderFrames s.params s.ctl.bright pos pat)
      { s.ctl with curTx := lastTx s.params, opAck := s.ctl.opAck && s.acked 4 } := by
  cases hf : s.params.framing with
  | single =>
    have h := State.sendFrame_sends s first 0 [s.params.cmdFixedAddr, addrByte s.params pos, pat,
      dispOnByte s.params s.ctl.bright] (by simp) (by simp)
    simpa only [State.render, renderFrames, lastTx, hf, State.sendFrames, List.length_cons, List.length_nil, Nat.zero_add,
      Nat.reduceAdd] using h
  | perCommand =>
    have h1 := State.sendFrame_sends s first 0 [s.params.cmdFixedAddr] (by simp) (by simp)
    have h2 := State.sendFrame_sends (s.sendFrame first 0 [s.params.cmdFixedAddr]) false 1
      [addrByte s.params pos, pat] (by simp) (by simp)
    have h3 := State.sendFrame_sends ((s.sendFrame first 0 [s.params.cmdFixedAddr]).sendFrame false 1
      [addrByte s.params pos, pat]) false 2 [dispOnByte s.params s.ctl.bright] (by simp) (by simp)
    have h12 := h1.trans rfl rfl rfl h2 (by simp)
    have h := h12.trans rfl rfl rfl h3 (by simp)
    have a1 : (s.acked 1 && (s.sendFrame first 0 [s.params.cmdFixedAddr]).acked 2) = s.acked 3 :=
      State.acked_add s _ 1 2 h1.dioIn h1.draws
    have a2 : (s.acked 3 && ((s.sendFrame first 0 [s.params.cmdFixedAddr]).sendFrame false 1
        [addrByte s.params pos, pat]).acked 1) = s.acked 4 := State.acked_add s _ 3 1 h12.dioIn h12.draws
    rw [← a2, ← a1]
    have hc := h2.ctl
    rw [h1.ctl] at hc
    rw [hc] at h
    have e : ((0 : Fin 3) + 1 = 1) ∧ ((1 : Fin 3) + 1 = 2) := by decide
    simpa only [State.render, renderFrames, lastTx, hf, State.sendFrames, e.1, e.2, List.length_cons, List.length_nil,
      Nat.zero_add, Nat.reduceAdd, Bool.and_assoc, List.cons_append, List.nil_append] using h

/-- DISP[p] written and rendered (R172). -/
theorem State.show_sends (s : State) (first : Bool) (pos : Fin 3) (g : GlyphRef) :
    Sends s (s.show first pos g) first (renderFrames s.params s.ctl.bright pos (segmentsOf s.params g))
      { s.ctl with
        disp := s.ctl.disp.set pos g, curTx := lastTx s.params, opAck := s.ctl.opAck && s.acked 4 } :=
  let h := State.render_sends (s.setDisp pos g) first pos (segmentsOf s.params g)
  ⟨h.cfg, h.pins, h.pos, h.wait, h.frameLen, h.ctl, h.env⟩

theorem set_all (d : Vector GlyphRef 3) (g0 g1 g2 : GlyphRef) : ((d.set 0 g0).set 1 g1).set 2 g2 = #v[g0, g1, g2] := by
  apply Vector.ext
  intro i hi
  match i, hi with
  | 0, _ => simp
  | 1, _ => simp
  | 2, _ => simp

/-- Three renders (R167, R170). -/
theorem State.showAll_sends (s : State) (g0 g1 g2 : GlyphRef) :
    Sends s (s.showAll g0 g1 g2) true
      (renderFrames s.params s.ctl.bright 0 (segmentsOf s.params g0) ++
        renderFrames s.params s.ctl.bright 1 (segmentsOf s.params g1) ++
        renderFrames s.params s.ctl.bright 2 (segmentsOf s.params g2))
      { s.ctl with
        disp := #v[g0, g1, g2], curP := 2, curTx := lastTx s.params, opAck := s.ctl.opAck && s.acked 12 } := by
  let u0 := s.setCurP 0
  let u1 := (u0.show true 0 g0).setCurP 1
  let u2 := (u1.show false 1 g1).setCurP 2
  have h0 : Sends s (u0.show true 0 g0) true (renderFrames s.params s.ctl.bright 0 (segmentsOf s.params g0))
      { s.ctl with
        disp := s.ctl.disp.set 0 g0, curP := 0, curTx := lastTx s.params, opAck := s.ctl.opAck && s.acked 4 } :=
    let h := State.show_sends u0 true 0 g0
    ⟨h.cfg, h.pins, h.pos, h.wait, h.frameLen, h.ctl, h.env⟩
  have e1 : u1.ctl = { s.ctl with
      disp := s.ctl.disp.set 0 g0, curP := 1, curTx := lastTx s.params, opAck := s.ctl.opAck && s.acked 4 } := by
    show { (u0.show true 0 g0).ctl with curP := 1 } = _
    rw [h0.ctl]
  have p1 : u1.params = s.params := congrArg Subtype.val h0.cfg
  have h1 := State.show_sends u1 false 1 g1
  rw [p1, e1] at h1
  have h01 := h0.trans (t' := u1) rfl rfl rfl h1 (renderFrames_ne _ _ _ _)
  have e2 : u2.ctl = { s.ctl with
      disp := (s.ctl.disp.set 0 g0).set 1 g1, curP := 2, curTx := lastTx s.params
      opAck := (s.ctl.opAck && s.acked 4) && u1.acked 4 } := by
    show { (u1.show false 1 g1).ctl with curP := 2 } = _
    rw [h1.ctl]
    rfl
  have p2 : u2.params = s.params := congrArg Subtype.val h01.cfg
  have h2 := State.show_sends u2 false 2 g2
  rw [p2, e2] at h2
  have h := h01.trans (t' := u2) rfl rfl rfl h2
    (fun hh => renderFrames_ne _ _ _ _ (List.append_eq_nil_iff.1 hh).1)
  have l4 := renderFrames_flatten_length s.params s.ctl.bright 0 (segmentsOf s.params g0)
  have a1 : (s.acked 4 && u1.acked 4) = s.acked 8 :=
    State.acked_add s u1 4 4 (by rw [← l4]; exact h0.dioIn) (by rw [← l4]; exact h0.draws)
  have l8 : (renderFrames s.params s.ctl.bright 0 (segmentsOf s.params g0) ++
      renderFrames s.params s.ctl.bright 1 (segmentsOf s.params g1)).flatten.length = 8 := by
    simp only [List.flatten_append, List.length_append, renderFrames_flatten_length]
  have a2 : (s.acked 8 && u2.acked 4) = s.acked 12 :=
    State.acked_add s u2 8 4 (by rw [← l8]; exact h01.dioIn) (by rw [← l8]; exact h01.draws)
  rw [← a2, ← a1, ← set_all s.ctl.disp g0 g1 g2]
  simp only [Bool.and_assoc] at h ⊢
  exact h

end Sys2Proof.Machine
end

