-- ==== Sys2Proof/Laws/Frames.lean ====
section
/-! SUPPORT. Laws/Frames.lean: what the surroundings read of the transactions of a request: their bytes, their micro-ops and
their cycles. -/

namespace Sys2Proof.Machine

/-- Eight levels shifted out are read at their B3 rises. -/
theorem framesFrom_bits (q : Nat) (r : List PortEvent) : ∀ (l acc : List Bool) (bytes : List Byte) (p : Pins) (c : Nat),
    framesFrom acc bytes (scriptEvents q p c (l.flatMap bitScript) ++ r) = framesFrom (acc ++ l) bytes r := by
  intro l
  induction l with
  | nil => intro acc bytes p c; simp [scriptEvents]
  | cons v l ih =>
    intro acc bytes p c
    rw [List.flatMap_cons, scriptEvents_append, List.append_assoc]
    simp only [bitScript, scriptEvents, opEvent, pinsAfter, actionOf, framesFrom, List.cons_append, List.nil_append]
    exact (ih _ _ _ _).trans (by rw [List.append_assoc]; rfl)

/-- A byte is read from its eight levels. -/
theorem framesFrom_byte (q : Nat) (r : List PortEvent) (b : Byte) (bytes : List Byte) (p : Pins) (c : Nat) :
    framesFrom [] bytes (scriptEvents q p c (byteScript b) ++ r) =
      framesFrom [] (bytes ++ [byteOfLevels (levelsOfByte b)]) r := by
  rw [byteScript, scriptEvents_append, List.append_assoc, framesFrom_bits]
  simp only [ackScript, scriptEvents, opEvent, framesFrom, List.cons_append, List.nil_append]

theorem framesFrom_bytes (q : Nat) (r : List PortEvent) : ∀ (l bytes : List Byte) (p : Pins) (c : Nat),
    framesFrom [] bytes (scriptEvents q p c (l.flatMap byteScript) ++ r) =
      framesFrom [] (bytes ++ l.map fun b => byteOfLevels (levelsOfByte b)) r := by
  intro l
  induction l with
  | nil => intro bytes p c; simp [scriptEvents]
  | cons b l ih =>
    intro bytes p c
    rw [List.flatMap_cons, scriptEvents_append, List.append_assoc, framesFrom_byte, ih, List.append_assoc]
    rfl

/-- A whole transaction is read as its bytes. -/
theorem framesFrom_send (q : Nat) (r : List PortEvent) (l : List Byte) (p : Pins) (c : Nat) :
    framesFrom [] [] (scriptEvents q p c (sendScript l) ++ r) =
      (l.map fun b => byteOfLevels (levelsOfByte b)) :: framesFrom [] [] r := by
  rw [sendScript, scriptEvents_append, scriptEvents_append, List.append_assoc, List.append_assoc]
  simp only [scriptEvents, opEvent, framesFrom, List.cons_append, List.nil_append, framesFrom_bytes]

/-- The transactions of a request are read as their bytes. -/
theorem framesOf_framesEvents (q g : Nat) : ∀ (frames : List (List Byte)) (first : Bool) (p : Pins) (c : Nat),
    framesOf (framesEvents q g first p c frames) =
      frames.map fun f => f.map fun b => byteOfLevels (levelsOfByte b) := by
  intro frames
  induction frames with
  | nil => intro first p c; rfl
  | cons f r ih =>
    intro first p c
    rw [framesEvents, framesOf, framesFrom_send]
    exact congrArg _ (ih _ _ _)

theorem scriptCycles_append (q : Nat) (a b : List (MicroOp × Bool)) :
    scriptCycles q (a ++ b) = scriptCycles q a + scriptCycles q b := by
  simp only [scriptCycles, List.map_append, List.sum_append]

theorem scriptCycles_flatMap {α : Type} (q n : Nat) (f : α → List (MicroOp × Bool)) (h : ∀ x, scriptCycles q (f x) = n) :
    ∀ l : List α, scriptCycles q (l.flatMap f) = l.length * n := by
  intro l
  induction l with
  | nil => simp [scriptCycles]
  | cons x l ih => rw [List.flatMap_cons, scriptCycles_append, h, ih, List.length_cons, Nat.succ_mul, Nat.add_comm]

/-- A transaction of n bytes takes `frameCycles` cycles (spec/41_bit_channel.md R141). -/
theorem scriptCycles_send (p : Params) (l : List Byte) :
    scriptCycles p.qCycles (sendScript l) = frameCycles p l.length := by
  have hbit : ∀ v, scriptCycles p.qCycles (bitScript v) = 3 + 4 * p.qCycles := by
    intro v; simp only [bitScript, scriptCycles, List.map, List.sum_cons, List.sum_nil, waitOf]; omega
  have hbyte : ∀ b, scriptCycles p.qCycles (byteScript b) = 31 + 35 * p.qCycles := by
    intro b
    rw [byteScript, scriptCycles_append, scriptCycles_flatMap _ _ _ hbit]
    simp only [levelsOfByte, List.length_map, List.length_range, ackScript, scriptCycles, List.map, List.sum_cons,
      List.sum_nil, waitOf]
    omega
  rw [sendScript, scriptCycles_append, scriptCycles_append, scriptCycles_flatMap _ _ _ hbyte, frameCycles]
  simp only [scriptCycles, List.map, List.sum_cons, List.sum_nil, waitOf]
  ring

/-- The transactions of a request, with their gaps. -/
theorem framesEnd_eq (p : Params) (g : Nat) : ∀ (frames : List (List Byte)) (first : Bool) (c : Nat),
    framesEnd p.qCycles g first c frames =
      c + ((frames.map List.length).map (frameCycles p)).sum + (frames.length - first.toNat) * g := by
  intro frames
  induction frames with
  | nil => intro first c; simp [framesEnd]
  | cons f r ih =>
    intro first c
    rw [framesEnd, ih, scriptEnd_eq, scriptCycles_send]
    cases first <;> simp only [Bool.toNat_true, Bool.toNat_false, List.map_cons, List.sum_cons, List.length_cons,
      Nat.sub_zero, Nat.add_sub_cancel, Nat.add_mul, if_true, Bool.false_eq_true, if_false] <;> omega

theorem opTimes_append : ∀ a b : List PortEvent, opTimes (a ++ b) = opTimes a ++ opTimes b
  | [], _ => rfl
  | .micro _ _ _ _ _ :: a, b => congrArg (List.cons _) (opTimes_append a b)
  | .response _ _ :: a, b => opTimes_append a b
  | .reset _ :: a, b => opTimes_append a b

theorem startTimes_append (a b : List PortEvent) : startTimes (a ++ b) = startTimes a ++ startTimes b := by
  simp only [startTimes, opTimes_append, List.filter_append, List.map_append]

/-- The micro-ops a script performs, with their cycles. -/
theorem opTimes_ops (q : Nat) : ∀ (l : List (MicroOp × Bool)) (p : Pins) (c : Nat),
    (opTimes (scriptEvents q p c l)).map Prod.fst = l.map Prod.fst
  | [], _, _ => rfl
  | _ :: l, _, _ => congrArg (List.cons _) (opTimes_ops q l _ _)

theorem startTimes_none (q : Nat) (l : List (MicroOp × Bool)) (h : ∀ x ∈ l, x.1 ≠ .s1) (p : Pins) (c : Nat) :
    startTimes (scriptEvents q p c l) = [] := by
  rw [startTimes, List.map_eq_nil_iff, List.filter_eq_nil_iff]
  intro x hx
  have hx' : x.1 ∈ l.map Prod.fst := by
    rw [← opTimes_ops q l p c]
    exact List.mem_map_of_mem hx
  obtain ⟨y, hy, e⟩ := List.mem_map.1 hx'
  simpa [← e] using h y hy

theorem byteScript_ne_s1 (b : Byte) : ∀ x ∈ byteScript b, x.1 ≠ .s1 := by
  intro x hx
  rcases List.mem_append.1 hx with hx | hx
  · obtain ⟨v, -, hv⟩ := List.mem_flatMap.1 hx
    simp only [bitScript, List.mem_cons, List.not_mem_nil, or_false] at hv
    rcases hv with rfl | rfl | rfl <;> simp
  · simp only [ackScript, List.mem_cons, List.not_mem_nil, or_false] at hx
    rcases hx with rfl | rfl | rfl | rfl | rfl | rfl | rfl <;> simp

/-- A transaction has one S1, its first micro-op. -/
theorem startTimes_send (q : Nat) (l : List Byte) (p : Pins) (c : Nat) :
    startTimes (scriptEvents q p c (sendScript l)) = [c] := by
  rw [sendScript, List.append_assoc, List.cons_append, scriptEvents]
  refine congrArg (List.cons c) (startTimes_none q _ ?_ _ _)
  intro x hx
  simp only [List.cons_append, List.nil_append, List.mem_cons, List.mem_append, List.mem_flatMap, List.not_mem_nil, or_false] at hx
  rcases hx with rfl | rfl | ⟨b, -, hb⟩ | rfl | rfl | rfl
  · simp
  · simp
  · exact byteScript_ne_s1 b x hb
  · simp
  · simp
  · simp

/-- The S1 of each transaction of a request comes in its cycle (spec/41_bit_channel.md R146). -/
theorem startTimes_framesEvents (p : Params) : ∀ (frames : List (List Byte)) (first : Bool) (pins : Pins) (c : Nat),
    startTimes (framesEvents p.qCycles (p.gapQ * p.qCycles) first pins c frames) =
      frameStarts p (if first then c else c + p.gapQ * p.qCycles) (frames.map List.length) := by
  intro frames
  induction frames with
  | nil => intro first pins c; rfl
  | cons f r ih =>
    intro first pins c
    rw [framesEvents, startTimes_append, startTimes_send, ih, scriptEnd_eq, scriptCycles_send]
    rfl

end Sys2Proof.Machine
end

