-- ==== Sys2Proof/Laws/PerInstr.lean ====
section
/-! SUPPORT. Laws/PerInstr.lean: per instruction, the encoded word lies in its row of spec/opcode_table.json: it has the row's
width, and its top bits are the row's fixed bits. -/

namespace Sys2Proof.Laws.InItsRow

/-- A row's width, how many bits lie below its fixed bits, and the fixed bits; in a wire row those of R82's default
patterns. -/
def row : Instr → Nat × Nat × Nat
  | .init _ => (32, 28, 1)
  | .setbrt _ _ => (32, 28, 2)
  | .clear _ => (32, 28, 3)
  | .setdig _ _ _ => (32, 28, 4)
  | .setpat _ _ _ => (32, 28, 5)
  | .setint _ => (32, 28, 6)
  | .illegalZero _ => (32, 28, 0)
  | .illegalSeven _ => (32, 28, 7)
  | .illegalHigh _ _ => (32, 31, 1)
  | .fixedAddr => (8, 0, 0x44)
  | .addr _ => (8, 2, 0x30)
  | .data _ => (8, 8, 0)
  | .dispOn _ => (8, 3, 0x11)
  | .dispOff => (8, 0, 0x80)

/-- The encoded word lies in its row. -/
def Statement (i : Instr) : Prop :=
  ∀ w, encode Params.specDefault i = some w → w.1 = (row i).1 ∧ w.2 / 2 ^ (row i).2.1 = (row i).2.2

/-- A field of n bits below others: the quotient by its span drops it. -/
theorem append_div {m n : Nat} (a : BitVec m) (b : BitVec n) : (a ++ b).toNat / 2 ^ n = a.toNat := by
  rw [BitVec.toNat_append, ← Nat.shiftLeft_add_eq_or_of_lt b.isLt, Nat.shiftLeft_eq, Nat.add_comm,
    Nat.add_mul_div_right _ _ (Nat.two_pow_pos n), Nat.div_eq_of_lt b.isLt, Nat.zero_add]

/-- Two fields below a third. -/
theorem append_div_two {l m n : Nat} (a : BitVec l) (b : BitVec m) (c : BitVec n) :
    (a ++ b ++ c).toNat / 2 ^ (m + n) = a.toNat := by
  rw [show 2 ^ (m + n) = 2 ^ n * 2 ^ m by rw [Nat.pow_add, Nat.mul_comm], ← Nat.div_div_eq_div_mul, append_div,
    append_div]

/-- Three fields below a fourth. -/
theorem append_div_three {k l m n : Nat} (a : BitVec k) (b : BitVec l) (c : BitVec m) (d : BitVec n) :
    (a ++ b ++ c ++ d).toNat / 2 ^ (l + (m + n)) = a.toNat := by
  rw [show 2 ^ (l + (m + n)) = 2 ^ n * 2 ^ (l + m) by rw [← Nat.pow_add]; congr 1; omega, ← Nat.div_div_eq_div_mul,
    append_div, append_div_two]

/-- A request's word. -/
theorem of_request {i : Instr} {w : ReqWord} (hw : i.wellFormed = true) (he : encodeRequest i = some w)
    (hr : (row i).1 = 32) (h : w.toNat / 2 ^ (row i).2.1 = (row i).2.2) : Statement i := by
  intro x hx
  rw [encode, if_pos hw, he] at hx
  obtain rfl := Option.some.inj hx
  exact ⟨hr.symm, h⟩

/-- A wire byte. -/
theorem of_wire {i : Instr} {b : Byte} (he : encodeRequest i = none) (hb : encodeWire Params.specDefault i = some b)
    (hr : (row i).1 = 8) (h : i.wellFormed = true → b.toNat / 2 ^ (row i).2.1 = (row i).2.2) : Statement i := by
  intro x hx
  rw [encode, he, hb] at hx
  by_cases hw : i.wellFormed = true
  · rw [if_pos hw] at hx
    obtain rfl := Option.some.inj hx
    exact ⟨hr.symm, h hw⟩
  · rw [if_neg hw] at hx
    cases hx

theorem init (ign : BitVec 28) : Statement (.init ign) := of_request rfl rfl rfl (append_div _ _)

theorem setbrt (ign : BitVec 20) (level : Byte) : Statement (.setbrt ign level) :=
  of_request rfl rfl rfl (append_div_two _ _ _)

theorem clear (ign : BitVec 28) : Statement (.clear ign) := of_request rfl rfl rfl (append_div _ _)

theorem setdig (ign : BitVec 12) (pos glyph : Byte) : Statement (.setdig ign pos glyph) :=
  of_request rfl rfl rfl (append_div_three _ _ _ _)

theorem setpat (ign : BitVec 12) (pos pat : Byte) : Statement (.setpat ign pos pat) :=
  of_request rfl rfl rfl (append_div_three _ _ _ _)

theorem setint (value : BitVec 28) : Statement (.setint value) := of_request rfl rfl rfl (append_div _ _)

theorem illegalZero (arg : BitVec 28) : Statement (.illegalZero arg) := of_request rfl rfl rfl (append_div _ _)

theorem illegalSeven (arg : BitVec 28) : Statement (.illegalSeven arg) := of_request rfl rfl rfl (append_div _ _)

theorem illegalHigh (sub : BitVec 3) (arg : BitVec 28) : Statement (.illegalHigh sub arg) :=
  of_request rfl rfl rfl (append_div_two _ _ _)

theorem fixedAddr : Statement .fixedAddr := of_wire rfl rfl rfl (fun _ => rfl)

theorem addr (p : BitVec 2) : Statement (.addr p) :=
  of_wire rfl rfl rfl (fun _ =>
    (show ∀ q : BitVec 2, ((0xC0 : Byte) + q.setWidth 8).toNat / 2 ^ 2 = 0x30 by decide) p)

theorem data (v : Byte) : Statement (.data v) := of_wire rfl rfl rfl (fun _ => Nat.div_eq_of_lt v.isLt)

theorem dispOn (b : BitVec 3) : Statement (.dispOn b) :=
  of_wire rfl rfl rfl (fun _ =>
    (show ∀ q : BitVec 3, ((0x88 : Byte) + q.setWidth 8).toNat / 2 ^ 3 = 0x11 by decide) b)

theorem dispOff : Statement .dispOff := of_wire rfl rfl rfl (fun _ => rfl)

end Sys2Proof.Laws.InItsRow
end

