-- ==== Sys2Proof/Tests/Slice0.lean ====
section
/-! SUPPORT. Tests/Slice0.lean: the spec's own test vectors (spec/95_test_vectors.md) and words written out from its
encodings, one step each on small states. -/

namespace Sys2Proof.Tests

open Sys2Proof.Machine

/-! The configuration of spec/95_test_vectors.md: the defaults of R8 with `Q_CYCLES` = 4, ISSUE_LAT = RESP_LAT = 1 and
GAP_Q = 0.  The OPEN entries take values of this file's own. -/

def vectorParams (f : Framing) : Params where
  nDigits := 3
  segTable := segTableOf #v[0x00, 0x40, 0x63, 0x01, 0x08, 0x11, 0x22] 0
  blankIndex := 16
  dashIndex := 17
  degreeIndex := 18
  cmdFixedAddr := 0x44
  cmdAddrBase := 0xC0
  cmdDispOnBase := 0x88
  cmdDispOff := 0x80
  framing := f
  tUnitNs := 50000
  tClkNs := 3125
  qCycles := 4
  gapQ := 0
  issueLat := 1
  respLat := 1

theorem test_vectorParams_ok : (vectorParams .single).Ok := by decide

theorem test_perCommandParams_ok : (vectorParams .perCommand).Ok := by decide

def single : Config := ⟨vectorParams .single, test_vectorParams_ok⟩

def perCommand : Config := ⟨vectorParams .perCommand, test_perCommandParams_ok⟩

/-- A block with configuration c between requests, whose coming samples are d. -/
def quiet (c : Config) (d : List Bool) : State :=
  let s := State.resetFor c { Env.start with dioIn := d }
  { s with ctl := { s.ctl with busy := false, stage := .resp } }

/-- The same block with a request on its port. -/
def presented (w : ReqWord) : State :=
  let s := quiet single []
  { s with env := { s.env with reqIn := [some w] } }

/-- A block sending a frame of n bytes, all v, about to perform m at byte j and bit i. -/
def onBus (m : MicroOp) (j : BitVec 2) (i : BitVec 3) (n : BitVec 3) (v : Byte) : State :=
  let s := State.resetFor single Env.start
  { s with
    ctl := { s.ctl with stage := .run }
    chan := { s.chan with pos := some m, byteIdx := j, bitIdx := i, frameLen := n, frame := #v[v, v, v, v] } }

/-- A block posting a response. -/
def posting : State :=
  let s := State.resetFor single Env.start
  { s with ctl := { s.ctl with stage := .resp, respValid := true, respCode := .nack } }

/-- n samples LOW. -/
def low (n : Nat) : List Bool := List.replicate n false

/-- A reading of the next state. -/
def after {α : Type} (f : State → α) : Host.Outcome State Fault Refusal → Option α
  | .next t => some (f t)
  | .fault _ => none
  | .refused _ => none

/-- The transactions sent. -/
def sent (t : State) : List (List Byte) := framesOf t.env.trace.reverse

/-- The answer, and what the host reads back of the digits. -/
def answer (t : State) : Resp × Vector GlyphRef 3 := (t.ctl.lastResp, t.ctl.disp)

/-! Well-formedness (spec/30_encoding.md R82: ADDR(p), p in 0..2). -/

theorem test_addr_three_ill_formed : (Instr.addr 3).wellFormed = false ∧ encode (vectorParams .single) (.addr 3) = none := by
  decide

theorem test_addr_two_well_formed : (Instr.addr 2).wellFormed = true := by decide

/-! Decoding: V-EN1, V-EN2, V-EN3, and the bytes of R82, each constructor. -/

theorem test_decode_init : decodeTableWord 32 0x10000000 = some (.init 0) ∧
    decodeTableWord 32 0x1ABCDEF0 = some (.init 0xABCDEF0) := by decide

theorem test_decode_setbrt : decodeTableWord 32 0x20000005 = some (.setbrt 0 5) ∧
    decodeTableWord 32 0x2FFFFF03 = some (.setbrt 0xFFFFF 3) := by decide

theorem test_decode_clear : decodeTableWord 32 0x30000000 = some (.clear 0) := by decide

theorem test_decode_setdig : decodeTableWord 32 0x40000109 = some (.setdig 0 1 9) ∧
    decodeTableWord 32 0x4ABC0207 = some (.setdig 0xABC 2 7) := by decide

theorem test_decode_setpat : decodeTableWord 32 0x500002FF = some (.setpat 0 2 0xFF) := by decide

theorem test_decode_setint : decodeTableWord 32 0x6000002A = some (.setint 42) ∧
    decodeTableWord 32 0x6FFFFFFF = some (.setint (-1)) ∧
    decodeTableWord 32 0x68000000 = some (.setint (BitVec.ofInt 28 (-134217728))) ∧
    decodeTableWord 32 0x67FFFFFF = some (.setint 134217727) := by decide

theorem test_decode_illegal : decodeTableWord 32 0x00000000 = some (.illegalZero 0) ∧
    decodeTableWord 32 0x70000000 = some (.illegalSeven 0) ∧
    decodeTableWord 32 0x8000002A = some (.illegalHigh 0 0x2A) ∧
    decodeTableWord 32 0xF0000000 = some (.illegalHigh 7 0) := by decide

theorem test_decode_fixed_addr : decodeTableWord 8 0b01000100 = some .fixedAddr := by decide

theorem test_decode_addr : decodeTableWord 8 0b11000000 = some (.addr 0) ∧ decodeTableWord 8 0b11000010 = some (.addr 2) := by
  decide

theorem test_decode_data : decodeTableWord 8 0b00000111 = some (.data 7) ∧
    decodeWire (vectorParams .single) .afterAddr 0x44 = .ok (.data 0x44) := ⟨by decide, rfl⟩

theorem test_decode_disp_on : decodeTableWord 8 0b10001000 = some (.dispOn 0) ∧
    decodeTableWord 8 0b10001111 = some (.dispOn 7) := by decide

theorem test_decode_disp_off : decodeTableWord 8 0b10000000 = some .dispOff := by decide

theorem test_decode_other_width : decodeTableWord 16 0x4400 = none := by decide

theorem test_not_a_command : decodeWire (vectorParams .single) .command 0xC3 = .error .notACommand := rfl

/-! The assembler (R84, R85). -/

theorem test_assemble_setint : assembleWord (vectorParams .single) (.setint (-1)) = some 0x6FFFFFFF := by decide

theorem test_assemble_refuses : assembleWord (vectorParams .single) (.setdig 256 0) = none ∧
    assembleWord (vectorParams .single) (.setbrt 8) = some 0x20000008 := by decide

theorem test_assemble_blank : assembleWord (vectorParams .single) (.blank 1) = some 0x40000110 := by decide

/-! SegmentEncoder: V-SE1 to V-SE4. -/

theorem test_encode_table : (List.finRange 16).map (fun i => segmentsOf (vectorParams .single) (.index ⟨i.val, by omega⟩)) =
    [0x3F, 0x06, 0x5B, 0x4F, 0x66, 0x6D, 0x7D, 0x07, 0x7F, 0x6F, 0x77, 0x7C, 0x39, 0x5E, 0x79, 0x71] := by decide

theorem test_encode_raw : segmentsOf (vectorParams .single) (.raw 0x44) = 0x44 ∧
    segmentsOf (vectorParams .single) (blankRef (vectorParams .single)) = 0x00 ∧ glyphOfBits 0b000010111 = none := by decide

/-! BitChannel: V-BC1 to V-BC7. -/

/-- A micro-op with its cycle and CLK_OUT, DIO_OUT, DIO_OE after it. -/
def rows : List PortEvent → List (MicroOp × Nat × Bool × Bool × Bool)
  | [] => []
  | .micro m c a b o :: r => (m, c, a, b, o) :: rows r
  | .response _ _ :: r => rows r
  | .reset _ :: r => rows r

/-- V-BC1, rows 1 to 6: row k's cycle is k - 1 plus 4 cycles for each quarter unit elapsed before it. -/
theorem test_send_start : (rows ((quiet single (low 1)).send [0x44]).env.trace.reverse).take 6 = [
    (.s1, 0, true, true, true), (.s2, 1 + 4 * 2, true, true, true), (.s3, 2 + 4 * 3, true, false, true),
    (.b1, 3 + 4 * 4, false, false, true), (.b2, 4 + 4 * 5, false, false, true), (.b3, 5 + 4 * 6, true, false, true)] := by
  decide +kernel

/-- V-BC1, rows 28 to 37. -/
theorem test_send_end : (rows ((quiet single (low 1)).send [0x44]).env.trace.reverse).drop 27 = [
    (.a1, 27 + 4 * 36, false, false, true), (.a2, 28 + 4 * 36, false, true, true), (.a3, 29 + 4 * 37, true, true, true),
    (.a4, 30 + 4 * 38, true, true, false), (.a5, 31 + 4 * 38, true, true, false), (.a6, 32 + 4 * 38, true, false, true),
    (.a7, 33 + 4 * 39, false, false, true), (.p1, 34 + 4 * 39, false, false, true), (.p2, 35 + 4 * 41, true, false, true),
    (.p3, 36 + 4 * 42, true, true, true)] := by
  decide +kernel

/-- V-BC2. -/
theorem test_bit_levels : levelsOfByte 0xC1 = [true, false, false, false, false, false, true, true] ∧
    levelsOfByte 0x8A = [false, true, false, true, false, false, false, true] := by decide

/-- V-BC3. -/
theorem test_send_silent : ((quiet single [true]).send [0x44]).chan.ackAcc = false ∧
    (opTimes ((quiet single [true]).send [0x44]).env.trace).length = 37 := by decide +kernel

/-- V-BC4. -/
theorem test_send_ands : ((quiet single (low 4)).send [1, 2, 3, 4]).chan.ackAcc = true ∧
    ((quiet single [false, false, false, true]).send [1, 2, 3, 4]).chan.ackAcc = false ∧
    ((quiet single [true]).send [1, 2, 3, 4]).chan.ackAcc = false := by decide +kernel

/-- V-BC5. -/
theorem test_frame_cycles : frameCycles (vectorParams .single) 1 = 209 ∧ frameCycles (vectorParams .single) 2 = 380 ∧
    frameCycles (vectorParams .single) 4 = 722 := by decide

/-! The requests: V-DC1 to V-DC23, V-EX1. -/

/-- V-DC1. -/
theorem test_setdig_wire : after (fun t => (sent t, answer t, t.env.cycles)) (exec (.setdig 0 0 7) (quiet single (low 4))) =
    some ([[0x44, 0xC0, 0x07, 0x8A]], (.ok, #v[.index 7, .index 16, .index 16]), 724 + 1) := by decide +kernel

/-- V-DC8, V-EX1. -/
theorem test_setdig_invalid : after (fun t => (sent t, answer t)) (exec (.setdig 0 3 30) (quiet single [])) =
    some ([], (.invalid, #v[.index 16, .index 16, .index 16])) := by decide +kernel

/-- V-DC4. -/
theorem test_setpat_wire : after (fun t => (sent t, answer t)) (exec (.setpat 0 1 0xFF) (quiet single (low 4))) =
    some ([[0x44, 0xC1, 0xFF, 0x8A]], (.ok, #v[.index 16, .raw 0xFF, .index 16])) := by decide +kernel

/-- V-DC8. -/
theorem test_setpat_invalid : after (fun t => (sent t, answer t)) (exec (.setpat 0 3 0) (quiet single [])) =
    some ([], (.invalid, #v[.index 16, .index 16, .index 16])) := by decide +kernel

/-- V-DC6, one sample HIGH: every frame is sent. -/
theorem test_clear_nack : after (fun t => (sent t, t.ctl.lastResp)) (exec (.clear 0) (quiet single ([true] ++ low 11))) =
    some ([[0x44, 0xC0, 0x00, 0x8A], [0x44, 0xC1, 0x00, 0x8A], [0x44, 0xC2, 0x00, 0x8A]], .nack) := by decide +kernel

/-- V-DC7, V-DC9. -/
theorem test_setbrt : after (fun t => (sent t, t.ctl.lastResp, t.ctl.bright)) (exec (.setbrt 0 7) (quiet single [])) =
    some ([], .ok, 7) := by decide +kernel

theorem test_setbrt_invalid : after (fun t => (sent t, t.ctl.lastResp, t.ctl.bright)) (exec (.setbrt 0 8) (quiet single [])) =
    some ([], .invalid, 2) := by decide +kernel

/-- V-DC21. -/
theorem test_setint_partial : after (fun t => (sent t, answer t))
    (exec (.setint 123) (quiet single (low 8 ++ [true, true, true, true]))) =
    some ([[0x44, 0xC0, 0x06, 0x8A], [0x44, 0xC1, 0x5B, 0x8A], [0x44, 0xC2, 0x4F, 0x8A]],
      (.nack, #v[.index 1, .index 2, .index 3])) := by decide +kernel

/-- V-DC10 to V-DC20. -/
theorem test_setint_digits : [0, 7, 42, 999, 1000, 134217727, -1, BitVec.ofInt 28 (-134217728), 100, 90].map digitsOf =
    [#v[0, 0, 0], #v[0, 0, 7], #v[0, 4, 2], #v[9, 9, 9], #v[9, 9, 9], #v[9, 9, 9], #v[0, 0, 0], #v[0, 0, 0], #v[1, 0, 0],
      #v[0, 9, 0]] := by decide +kernel

/-- V-DC22. -/
theorem test_per_command : after (fun t => (sent t, t.ctl.lastResp, t.env.cycles))
    (exec (.setdig 0 1 10) { quiet perCommand (low 4) with ctl := { (quiet perCommand []).ctl with bright := 0 } }) =
    some ([[0x44], [0xC1, 0x77], [0x88]], .ok, 800 + 1) := by decide +kernel

/-- V-DC23. -/
theorem test_init : after (fun t => (sent t, t.ctl.lastResp, t.ctl.bright))
    (exec (.init 0) { quiet single (low 12) with ctl := { (quiet single []).ctl with bright := 5 } }) =
    some ([[0x44, 0xC0, 0x00, 0x8A], [0x44, 0xC1, 0x00, 0x8A], [0x44, 0xC2, 0x00, 0x8A]], .ok, 2) := by decide +kernel

/-- V-DC23, silent. -/
theorem test_init_silent : after (fun t => (t.ctl.lastResp, t.ctl.bright)) (exec (.init 0) (quiet single (List.replicate 12 true))) =
    some (.nodev, 2) := by decide +kernel

/-- V-EN3. -/
theorem test_illegal : [Instr.illegalZero 0, .illegalSeven 0, .illegalHigh 0 0x2A, .illegalHigh 7 0].map
    (fun i => after (fun t => (sent t, t.ctl.lastResp, t.ctl.curOp)) (exec i (quiet single []))) =
    [some ([], .invalid, 0), some ([], .invalid, 7), some ([], .invalid, 8), some ([], .invalid, 15)] := by decide +kernel

/-! The wire commands: the eight levels of V-BC2 and the ninth clock. -/

theorem test_wire_bytes : [Instr.fixedAddr, .addr 1, .data 0x55, .dispOn 7, .dispOff].map
    (fun i => after (fun t => (byteOfLevels ((risingLevels true t.env.trace.reverse).take 8), t.pins)) (exec i (onBus .b1 0 0 4 0))) =
    [0x44, 0xC1, 0x55, 0x8F, 0x80].map (fun b => some (b, (⟨false, false, true⟩ : Pins))) := by decide +kernel

theorem test_addr_three_refused : exec (.addr 3) (onBus .b1 1 0 4 0) = .refused .noSuchDigit := rfl

/-! Reset: V-RS1, V-RS2, V-RS3. -/

/-- V-RS1, V-RS3: reset at B2 of the second byte. -/
theorem test_reset_cuts : after (fun t => (t.pins, t.chan.pos, t.rbStatus, t.env.trace))
    (step { onBus .b2 1 0 4 0x44 with env := { Env.start with rstIn := [true] } }) =
    some (⟨true, true, true⟩, none, 1, [.reset 0]) := by decide +kernel

/-- V-RS2: the construction, clocked: the response 2168 cycles after the first cycle with `rst` = 0, ready from the next. -/
theorem test_construction : after (fun t => (sent t, responses t.env.trace, t.reqReady))
    (step (State.resetFor single { Env.start with dioIn := low 12 })) =
    some ([[0x44, 0xC0, 0x00, 0x8A], [0x44, 0xC1, 0x00, 0x8A], [0x44, 0xC2, 0x00, 0x8A]], [(.ok, 2168)], true) := by
  decide +kernel

/-- SETBRT, clocked: acceptance in cycle 0, the response in cycle RESP_LAT = 1, ready from cycle 2 (Program 1). -/
theorem test_clocked_setbrt : [1, 2].map (fun n => (fun t : State => (t.reqReady, t.respValidPort, t.ctl.bright))
    (State.tick^[n] (presented 0x20000007))) = [(false, true, 7), (true, false, 7)] := by decide +kernel

/-! Witnesses: states and operands that meet the hypotheses of each obligation, at the boundaries of its clauses. -/

theorem test_quiet : (quiet single []).Quiet := ⟨rfl, rfl, rfl, rfl, rfl, rfl⟩

theorem test_presented_quiet : (presented 0x40000007).Quiet ∧ (presented 0x40000007).env.rstIn = [] ∧
    (presented 0x40000007).env.reqIn = some 0x40000007 :: [] := ⟨⟨rfl, rfl, rfl, rfl, rfl, rfl⟩, rfl, rfl⟩

/-- DecodeInvertsEncodeRequest and the statements about every request. -/
theorem test_witness_requests : [Instr.init 0, .setbrt 0 8, .clear 0, .setdig 0 2 22, .setpat 0 3 0, .setint 42, .illegalZero 0,
    .illegalSeven 0, .illegalHigh 0 0].all Instr.isRequest = true := by decide

/-- EveryWordIsOneRequest. -/
theorem test_witness_word : encodeRequest (.setdig 0xABC 2 7) = some 0x4ABC0207 := by decide

/-- The wire commands at the ends of their operands' ranges, with their bytes. -/
def wireRows : List (Instr × Byte) :=
  [(.fixedAddr, 0x44), (.addr 0, 0xC0), (.addr 2, 0xC2), (.data 0x44, 0x44), (.dispOn 0, 0x88), (.dispOn 7, 0x8F), (.dispOff, 0x80)]

/-- WireBytesDecodeInPlace. -/
theorem test_witness_wire : Params.specDefault.commandsDistinct = true ∧
    ∀ x ∈ wireRows, x.1.wellFormed = true ∧ encodeWire Params.specDefault x.1 = some x.2 := by decide

/-- WireCommandsShiftTheirByte: before the frame's end, and at its last byte. -/
theorem test_witness_wire_place : ∀ x ∈ wireRows, x.1.isRequest = false ∧ x.1.wellFormed = true ∧
    encodeWire (onBus .b1 2 0 4 0).params x.1 = some x.2 ∧ encodeWire (onBus .b1 3 0 4 0).params x.1 = some x.2 ∧
    (onBus .b1 2 0 4 0).chan.byteIdx.toNat < (onBus .b1 2 0 4 0).chan.frameLen.toNat - 1 ∧
    ¬ (onBus .b1 3 0 4 0).chan.byteIdx.toNat < (onBus .b1 3 0 4 0).chan.frameLen.toNat - 1 := by decide

/-- GlyphReferenceBits. -/
theorem test_witness_off_table : (23 : BitVec 9).getLsbD 8 = false ∧ 23 ≤ ((23 : BitVec 9).extractLsb' 0 8).toNat := by decide

/-- BadConfigurationsRefused, each constraint violated alone. -/
theorem test_witness_bad_configs :
    ({ vectorParams .single with cmdDispOnBase := 0x89 } : Params).cmdDispOnBase.extractLsb' 0 3 ≠ 0 ∧
    ({ vectorParams .single with cmdAddrBase := 0xC2 } : Params).cmdAddrBase.extractLsb' 0 2 ≠ 0 ∧
    ({ vectorParams .single with blankIndex := 17 } : Params).segTable.get 17 ≠ 0x00 ∧
    ({ vectorParams .single with nDigits := 4 } : Params).nDigits ≠ 3 := by decide

/-- SetintArithmetic. -/
theorem test_witness_clamp : 999 < (1000 : BitVec 28).toInt ∧ (-1 : BitVec 28).toInt < 0 ∧ 0 ≤ (0 : BitVec 28).toInt ∧
    (999 : BitVec 28).toInt ≤ 999 := by decide

/-- MicroOpTable: IDLE, the first micro-op and the last ones of two phases. -/
theorem test_witness_positions : (quiet single []).chan.pos = none ∧ (onBus .s1 0 0 4 0).chan.pos = some .s1 ∧
    (onBus .a7 0 0 4 0).chan.pos = some .a7 ∧ (onBus .p3 0 0 4 0).chan.pos = some .p3 := by decide

/-- MicroOpSuccessors. -/
theorem test_witness_successors : (onBus .b3 0 6 4 0).chan.bitIdx.toNat < 7 ∧ (onBus .b3 0 7 4 0).chan.bitIdx = 7 ∧
    (onBus .a7 2 7 4 0).chan.byteIdx.toNat < (onBus .a7 2 7 4 0).chan.frameLen.toNat - 1 ∧
    (onBus .a7 2 7 4 0).chan.byteIdx ≠ 3 ∧
    ¬ (onBus .a7 3 7 4 0).chan.byteIdx.toNat < (onBus .a7 3 7 4 0).chan.frameLen.toNat - 1 := by decide

/-- OnlyA5WritesAckAcc. -/
theorem test_witness_not_a5 : MicroOp.a4 ≠ .a5 ∧ MicroOp.p3 ≠ .a5 := by decide

/-- MicroOpTakesItsWait: a micro-op with a wait and P3, the last and the first cycle of its wait. -/
theorem test_witness_wait : ∀ m : MicroOp, m = .b3 ∨ m = .p3 →
    (onBus m 0 0 4 0).ctl.busy = true ∧ (onBus m 0 0 4 0).ctl.respValid = false ∧ (onBus m 0 0 4 0).ctl.stage = .run ∧
    (onBus m 0 0 4 0).chan.waitCnt = 0 ∧ (onBus m 0 0 4 0).chan.pos = some m ∧
    (onBus m 0 0 4 0).env.rstIn = [] ∧ 1 ≤ 1 + waitOf m * (onBus m 0 0 4 0).params.qCycles := by
  rintro m (rfl | rfl) <;> decide

/-- The statements about `send`: one byte and four. -/
theorem test_witness_send : ∀ bytes : List Byte, bytes = [0x44] ∨ bytes = [0x44, 0xC0, 0x07, 0x8A] →
    1 ≤ bytes.length ∧ bytes.length ≤ 4 ∧ (quiet single []).pins = Pins.idle := by
  rintro bytes (rfl | rfl) <;> decide

/-- RequestsHonourEveryWait. -/
theorem test_witness_exec : (Instr.setdig 0 0 7).isRequest = true ∧ ∃ t, exec (.setdig 0 0 7) (quiet single []) = .next t :=
  ⟨rfl, _, rfl⟩

/-- RenderBytesInOrder and NoRequestSendsDispOff: both framings, distinct commands. -/
theorem test_witness_framings : (vectorParams .single).framing = .single ∧ (vectorParams .perCommand).framing = .perCommand ∧
    (vectorParams .single).commandsDistinct = true ∧ (vectorParams .perCommand).commandsDistinct = true := by decide

/-- NoRequestSendsDispOff: a DATA byte equal to DISP_OFF, in both framings. -/
theorem test_witness_data_off : after sent (exec (.setpat 0 0 0x80) (quiet single [])) = some [[0x44, 0xC0, 0x80, 0x8A]] ∧
    after sent (exec (.setpat 0 0 0x80) (quiet perCommand [])) = some [[0x44], [0xC0, 0x80], [0x8A]] := by decide +kernel

/-- SetbrtEffect, SetdigEffect, SetpatEffect. -/
theorem test_witness_operands : (7 : Byte).toNat ≤ 7 ∧ 7 < (8 : Byte).toNat ∧ (2 : Byte).toNat ≤ 2 ∧ 2 < (3 : Byte).toNat ∧
    (22 : Byte).toNat ≤ 22 ∧ 22 < (23 : Byte).toNat := by decide

/-- IllegalOpsOnlyAnswer: OP 0, 7 and 15. -/
theorem test_witness_illegal_words : (0x0000002A : ReqWord).extractLsb' 28 4 = 0 ∧
    7 ≤ ((0x70000000 : ReqWord).extractLsb' 28 4).toNat ∧ 7 ≤ ((0xF0000000 : ReqWord).extractLsb' 28 4).toNat := by decide

/-- InvalidExactlyOnViolation and CodeFollowsTheSamples: INVALID, OK, NACK and NODEV all occur. -/
theorem test_witness_codes : after (fun t => t.ctl.lastResp) (exec (.setdig 0 3 0) (quiet single [])) = some .invalid ∧
    after (fun t => (t.ctl.lastResp, (quiet single (low 4)).acked t.env.draws)) (exec (.setpat 0 2 0) (quiet single (low 4))) =
      some (.ok, true) ∧
    after (fun t => (t.ctl.lastResp, (quiet single (low 3 ++ [true])).acked t.env.draws))
      (exec (.setpat 0 2 0) (quiet single (low 3 ++ [true]))) = some (.nack, false) ∧
    after (fun t => (t.ctl.lastResp, (quiet single (low 11 ++ [true])).acked t.env.draws))
      (exec (.init 0) (quiet single (low 11 ++ [true]))) = some (.nodev, false) := by decide +kernel

/-- StepRunsThePresentedRequest and AcceptanceLatchesTheWord. -/
theorem test_witness_presented : (presented 0x40000007).env.grain = .request ∧ (presented 0x40000007).rstLevel = false ∧
    (presented 0x40000007).ctl.busy = false ∧ (presented 0x40000007).env.reqIn = some 0x40000007 :: [] :=
  ⟨rfl, rfl, rfl, rfl⟩

/-- A block sending under PER_COMMAND, at byte j of transaction tx, all bytes v. -/
def onBusPer (tx : Fin 3) (j : BitVec 2) (v : Byte) : State :=
  let s := onBus .b1 j 0 2 v
  { s with cfg := perCommand, ctl := { s.ctl with curTx := tx } }

/-- StepRunsTheFrameByte under PER_COMMAND, either side of DATA's place; and a byte that is no command's value. -/
theorem test_witness_per_byte : (onBusPer 1 1 0x44).params.framing = .perCommand ∧ (onBusPer 1 1 0x44).chan.byteIdx = 1 ∧
    (onBusPer 1 1 0x44).ctl.curTx = 1 ∧ ¬ ((onBusPer 1 0 0xC0).ctl.curTx = 1 ∧ (onBusPer 1 0 0xC0).chan.byteIdx = 1) ∧
    decodeWire (onBusPer 1 0 0xC0).params .command 0xC0 = .ok (.addr 0) ∧
    decodeWire (onBusPer 0 0 0x01).params .command 0x01 = .error .notACommand :=
  ⟨rfl, rfl, rfl, by decide, rfl, rfl⟩

/-- R82, R163, R178: DATA's place, under either framing, and places beside it. -/
theorem test_data_place : (onBus .b1 2 0 4 0x44).wirePlace = .afterAddr ∧ (onBus .b1 1 0 4 0x44).wirePlace = .command ∧
    (onBusPer 1 1 0x44).wirePlace = .afterAddr ∧ (onBusPer 1 0 0x44).wirePlace = .command ∧
    (onBusPer 2 0 0x44).wirePlace = .command := by decide

/-- StepRunsTheFrameByte, a command byte and the DATA byte. -/
theorem test_witness_frame_byte : ∀ j : BitVec 2, j = 0 ∨ j = 2 →
    (onBus .b1 j 0 4 0x44).env.grain = .request ∧ (onBus .b1 j 0 4 0x44).rstLevel = false ∧
    (onBus .b1 j 0 4 0x44).ctl.busy = true ∧ (onBus .b1 j 0 4 0x44).ctl.respValid = false ∧
    (onBus .b1 j 0 4 0x44).ctl.stage = .run ∧ (onBus .b1 j 0 4 0x44).chan.waitCnt = 0 ∧ (onBus .b1 j 0 4 0x44).chan.pos = some .b1 ∧
    (onBus .b1 j 0 4 0x44).chan.bitIdx = 0 ∧
    decodeWire (onBus .b1 j 0 4 0x44).params (onBus .b1 j 0 4 0x44).wirePlace (onBus .b1 j 0 4 0x44).curByte =
      .ok (if j = 0 then .fixedAddr else .data 0x44) := by
  rintro j (rfl | rfl) <;> exact ⟨rfl, rfl, rfl, rfl, rfl, rfl, rfl, rfl, rfl⟩

/-- BusyBlockIgnoresTheRequestPort and ResponsePulseLastsOneCycle. -/
theorem test_witness_posting : posting.rstLevel = false ∧ posting.ctl.busy = true ∧ posting.ctl.respValid = true :=
  ⟨rfl, rfl, rfl⟩

/-- IdleBlockKeepsItsState. -/
theorem test_witness_idle : (quiet single []).Quiet ∧ (quiet single []).rstLevel = false ∧
    ∀ w, (quiet single []).env.reqIn.head? ≠ some (some w) :=
  ⟨test_quiet, rfl, fun _ h => nomatch h⟩

/-- ConstructionFollowsReset. -/
theorem test_witness_boot : Env.start.rstIn = [] := rfl

/-- ResetCycleAbandonsEverything. -/
theorem test_witness_reset : ({ quiet single [] with env := { Env.start with rstIn := [true] } } : State).rstLevel = true := rfl

/-- R80, R35, R161: the codes as the host reads them. -/
theorem test_response_codes : [Resp.ok, .nack, .invalid, .nodev].map (fun r =>
    let s := { posting with ctl := { posting.ctl with respCode := r, lastResp := r } }
    (s.respValidPort, s.respCodePort, s.rbStatus)) =
    [(true, 0, 0b001), (true, 1, 0b011), (true, 2, 0b101), (true, 3, 0b111)] := by decide

/-- ReadbackLayout: the block in output mode and in input mode, a response cycle and others. -/
theorem test_witness_ports : (onBus .a4 0 7 1 0).pins.dioOe = true ∧ ((onBus .a4 0 7 1 0).perform .a4).pins.dioOe = false ∧
    posting.rstLevel = false ∧ posting.ctl.respValid = true ∧ (quiet single []).ctl.respValid = false := by decide

/-- ReadbackLayout. -/
theorem test_witness_readback : (quiet single []).ctl.disp.get 0 = .index 16 ∧
    ((quiet single []).setDisp 2 (.raw 0x80)).ctl.disp.get 2 = .raw 0x80 := by decide

/-- AnsweredBlockIsQuiet: `test_witness_requests` and `test_quiet`.  StepKeepsTheInvariant and StepKeepsTheConfiguration. -/
theorem test_witness_step : State.reset.Inv ∧ ∃ t, step State.reset = .next t :=
  ⟨⟨nofun, fun _ => rfl, nofun, fun _ => rfl, fun _ => rfl, nofun, nofun, nofun, by decide, nofun, Nat.zero_le _⟩, _, rfl⟩

/-- RequestsSendWholeRenders: `test_witness_requests`, and `test_clear_nack`, `test_per_command`, `test_setdig_invalid` for
three renders, one in three transactions, none.  FirstMicroOpComesAfterIssueLat: besides `test_presented_quiet`. -/
theorem test_witness_rendering : requestLens (presented 0x40000007).params (decodeRequest 0x40000007) ≠ [] := by decide

/-- A block with ISSUE_LAT = 3. -/
def slowParams : Params := { vectorParams .single with issueLat := 3 }

def slow : Config := ⟨slowParams, by decide⟩

/-- ResetValuesHoldUntilTheFirstMicroOp: the first and the last of the cycles. -/
theorem test_witness_issue : Env.start.rstIn = [] ∧ 0 < single.val.issueLat ∧ 0 < slow.val.issueLat ∧ 2 < slow.val.issueLat := by
  decide

/-- R38, R146: with ISSUE_LAT = 3 the construction's S1 is performed in the fourth cycle with `rst` = 0, and PHASE is IDLE in
the three before it. -/
theorem test_phase_idle_until_issue : [0, 1, 2, 3, 4].map (fun n => (fun t : State => (t.phase, t.ustep, t.env.trace.length))
    (State.tick^[n] (State.resetFor slow Env.start))) =
    [(.idle, 0, 0), (.idle, 0, 0), (.idle, 0, 0), (.start, 0, 0), (.start, 1, 1)] := by decide +kernel

/-- DispHoldsTheGlyphBeforeItsRender: the cycle of S1 of SETDIG 0, 7. -/
theorem test_witness_showing : (presented 0x40000007).tick.Showing ∧ (presented 0x40000007).tick.chan.pos = some .s1 ∧
    (presented 0x40000007).tick.ctl.stage = .run :=
  ⟨⟨nofun, fun _ h => absurd h (by decide), fun _ => ⟨0, by decide, by decide, by decide⟩⟩, by decide, by decide⟩

/-- withFetchWord: the very next step runs the word. -/
theorem test_fetch_setbrt : after (fun t => (t.ctl.bright, t.ctl.lastResp)) (step (State.reset.withFetchWord 32 0x20000005)) =
    some (5, .ok) := by rfl

end Sys2Proof.Tests
end

section
/-! What `Config.ofParams` admits and refuses (spec/00_scope.md R9). -/

namespace Sys2Proof

/-- `Config.ofParams` refuses exactly the parameters that violate a constraint. -/
theorem Config.ofParams_eq_none_iff (p : Params) : Config.ofParams p = none ↔ ¬ p.Ok := by
  unfold Config.ofParams
  split
  · next hok => exact iff_of_false nofun (not_not_intro hok)
  · next hbad => exact iff_of_true rfl hbad

/-- Settles O10: a refusal is the failure of `Params.Ok`, whose first four parts are R9's constraints. -/
theorem badConfigurationsRefused : Obligations.BadConfigurationsRefused := by
  intro p hviolated
  rw [Config.ofParams_eq_none_iff]
  rintro ⟨hDispOn, hAddr, hBlank, hDigits, -⟩
  rcases hviolated with h | h | h | h
  · exact h hDispOn
  · exact h hAddr
  · exact h hBlank
  · exact h hDigits

end Sys2Proof
end

section
/-! What the reset state, a micro-op and the output ports read as (spec/10_state.md R22 to R38, spec/41_bit_channel.md
R123). -/

namespace Sys2Proof.Machine

/-! The table of R123. -/

theorem State.phase_of_pos {s : State} {m : MicroOp} (h : s.chan.pos = some m) : s.phase = phaseOf m := by
  rw [State.phase, h]; rfl

theorem State.ustep_of_pos {s : State} {m : MicroOp} (h : s.chan.pos = some m) : s.ustep = ustepOf m := by
  rw [State.ustep, h]; rfl

theorem State.phase_of_idle {s : State} (h : s.chan.pos = none) : s.phase = .idle := by
  rw [State.phase, h]; rfl

theorem State.ustep_of_idle {s : State} (h : s.chan.pos = none) : s.ustep = 0 := by
  rw [State.ustep, h]; rfl

/-- The micro-op in a row of the table. -/
def opAt : Phase → BitVec 3 → Option MicroOp
  | .idle, _ => none
  | .start, u => [.s1, .s2, .s3][u.toNat]?
  | .bit, u => [.b1, .b2, .b3][u.toNat]?
  | .ack, u => [.a1, .a2, .a3, .a4, .a5, .a6, .a7][u.toNat]?
  | .stop, u => [.p1, .p2, .p3][u.toNat]?

theorem opAt_phaseOf_ustepOf (m : MicroOp) : opAt (phaseOf m) (ustepOf m) = some m := by
  cases m <;> rfl

/-- PHASE and USTEP together name one micro-op. -/
theorem eq_of_phaseOf_ustepOf {m m' : MicroOp} (hp : phaseOf m = phaseOf m') (hu : ustepOf m = ustepOf m') : m = m' := by
  have h := opAt_phaseOf_ustepOf m
  rw [hp, hu, opAt_phaseOf_ustepOf m'] at h
  exact (Option.some.inj h).symm

theorem State.act_pins (s : State) (a : Action) : (s.act a).pins = pinsAfter s.pins a := by
  cases a <;> rfl

theorem State.moveOn_pins (s : State) (m : MicroOp) : (s.moveOn m).pins = s.pins := by
  obtain ⟨_, _, _, h⟩ := s.moveOn_eq m
  rw [h]

/-- A micro-op writes the pins by its action alone. -/
theorem State.perform_pins (s : State) (m : MicroOp) :
    (s.perform m).pins = pinsAfter s.pins (actionOf s.curBit m) :=
  (State.moveOn_pins _ m).trans (s.act_pins _)

/-- Settles O13: the columns are `phaseOf`, `ustepOf`, `actionOf` and `waitOf`, row by row. -/
theorem microOpTable : Obligations.MicroOpTable := by
  refine ⟨⟨rfl, rfl, rfl, rfl, rfl⟩, fun s h => ⟨State.phase_of_idle h, State.ustep_of_idle h⟩, ?_,
    fun m m' => eq_of_phaseOf_ustepOf, fun s m => ⟨?_, ?_⟩⟩
  · intro s m h
    rw [State.phase_of_pos h, State.ustep_of_pos h]
    cases m <;> rfl
  · rw [State.perform_pins]
    cases m <;> rfl
  · rw [State.perform_waitCnt]
    cases m <;> simp [waitOf]

/-! The ports (R35, R20). -/

theorem glyphBits_raw (v : Byte) : glyphBits (.raw v) = BitVec.ofNat 9 (256 + v.toNat) := by
  have hv := v.isLt
  apply BitVec.eq_of_toNat_eq
  rw [glyphBits, BitVec.toNat_append, ← Nat.shiftLeft_add_eq_or_of_lt hv, BitVec.toNat_ofNat,
    Nat.mod_eq_of_lt (by omega)]
  rfl

/-- The fields of `rb_status`, from bit 0 up. -/
theorem status_fields (r : BitVec 2) (b : Bool) :
    ((0 : BitVec 5) ++ r ++ BitVec.ofBool b).getLsbD 0 = b ∧
    ((0 : BitVec 5) ++ r ++ BitVec.ofBool b).extractLsb' 1 2 = r ∧
    ((0 : BitVec 5) ++ r ++ BitVec.ofBool b).extractLsb' 3 5 = 0 := by
  revert r b
  decide

theorem State.busyNow_of_busy {s : State} (h : s.ctl.busy = true) : s.busyNow = true := by
  rw [State.busyNow, h, Bool.true_or]

/-- Settles O51: each port by its definition, the fields of STATUS by `status_fields`. -/
theorem readbackLayout : Obligations.ReadbackLayout := by
  intro s
  obtain ⟨hbusy, hlast, hzero⟩ := status_fields (respBits s.ctl.lastResp) s.busyNow
  refine ⟨hbusy, rfl, hlast.trans ?_, hzero, rfl, ?_, ?_, ?_, ?_, ?_, ?_⟩
  · cases s.ctl.lastResp <;> rfl
  · intro n i h
    rw [State.rbDisp, h, glyphBits]
  · intro n v h
    rw [State.rbDisp, h, glyphBits_raw]
  · intro hrst hvalid
    refine ⟨by rw [State.respValidPort, hrst, hvalid]; rfl, ?_⟩
    rw [State.respCodePort]
    cases s.ctl.respCode <;> rfl
  · rintro (hrst | hvalid)
    · rw [State.respValidPort, hrst, Bool.not_true, Bool.and_false]
    · rw [State.respValidPort, hvalid, Bool.false_and]
  · intro hout
    rw [State.dioDriven, if_pos hout]
  · intro hin
    rw [State.dioDriven, hin]; rfl

/-! Reset (R38). -/

theorem Control.reset_disp_get (p : Params) : ∀ n : Fin 3, (Control.reset p).disp.get n = .index p.blankIndex
  | 0 => rfl
  | 1 => rfl
  | 2 => rfl

/-- Settles O50: R38's values are those of `Pins.idle`, `Channel.reset` and `Control.reset`. -/
theorem resetValues : Obligations.ResetValues := by
  intro c e
  refine ⟨rfl, rfl, rfl, rfl, rfl, rfl, rfl, fun n => ?_, ?_, rfl, rfl, rfl, rfl, rfl, rfl⟩
  · exact congrArg glyphBits (Control.reset_disp_get c.val n)
  · have hbusy : (State.resetFor c e).busyNow = true := State.busyNow_of_busy rfl
    rw [State.rbStatus, hbusy]
    exact (by decide : ((0 : BitVec 5) ++ respBits .ok ++ BitVec.ofBool true : Byte) = 1)

/-- After reset no micro-op, no request and no response is in progress. -/
theorem State.resetFor_inv (c : Config) (e : Env) : (State.resetFor c e).Inv where
  ready := nofun
  idle _ := rfl
  levels := nofun
  quietBus _ := rfl
  noWait _ := rfl
  issuing := nofun
  sending := nofun
  posting := nofun
  frameLen := (by decide : 1 ≤ (1 : BitVec 3).toNat ∧ (1 : BitVec 3).toNat ≤ 4)
  byteInFrame := nofun
  waitBound := Nat.zero_le _

/-- Settles O52: `State.reset` is one of the reset states. -/
theorem resetMeetsTheInvariant : Obligations.ResetMeetsTheInvariant :=
  ⟨State.resetFor_inv _ _, State.resetFor_inv⟩

/-! A transaction's result (R26). -/

/-- Settles O18: `State.send_eq` gives ACK_ACC as the samples folded, and `foldAcks_acked` says what they fold to. -/
theorem sendResultIsAndOfSamples : Obligations.SendResultIsAndOfSamples := by
  intro s bytes h1 h4
  rw [State.send_eq s bytes h1 h4]
  exact ⟨foldAcks_acked s bytes.length, rfl, rfl⟩

end Sys2Proof.Machine
end

section
/-! No operation writes the configuration (spec/10_state.md R37): the clock's, the meanings', a step. -/

namespace Sys2Proof.Machine

variable (s : State)

@[simp] theorem State.launch_cfg : s.launch.cfg = s.cfg := by
  rw [State.launch]; split <;> rfl

@[simp] theorem State.beginTx_cfg (pos tx : Fin 3) : (s.beginTx pos tx).cfg = s.cfg := rfl

@[simp] theorem State.beginRender_cfg (pos : Fin 3) (g : GlyphRef) : (s.beginRender pos g).cfg = s.cfg := rfl

@[simp] theorem State.beginBus_cfg (pos : Fin 3) (g : GlyphRef) : (s.beginBus pos g).cfg = s.cfg := State.launch_cfg _

@[simp] theorem State.schedule_cfg (r : Resp) (n : Nat) : (s.schedule r n).cfg = s.cfg := rfl

@[simp] theorem State.answer_cfg (r : Resp) : (s.answer r).cfg = s.cfg := rfl

@[simp] theorem State.startInit_cfg : s.startInit.cfg = s.cfg := State.beginBus_cfg _ _ _

@[simp] theorem State.dispatch_cfg : s.dispatch.cfg = s.cfg := by
  unfold State.dispatch
  split
  case h_1 => simp
  case h_2 => split <;> simp
  case h_3 => simp
  case h_4 => split <;> simp
  case h_5 => split <;> simp
  case h_6 => simp
  case h_7 => simp

@[simp] theorem State.endFrame_cfg : s.endFrame.cfg = s.cfg := by
  unfold State.endFrame
  dsimp only
  split
  · split
    · simp
    · split <;> simp
  · simp

@[simp] theorem State.countWait_cfg : s.countWait.cfg = s.cfg := rfl

@[simp] theorem State.countLatency_cfg : s.countLatency.cfg = s.cfg := rfl

@[simp] theorem State.issueCycle_cfg : s.issueCycle.cfg = s.cfg := by
  rw [State.issueCycle, State.launch_cfg]; split <;> rfl

@[simp] theorem State.runCycle_cfg : s.runCycle.cfg = s.cfg := by
  unfold State.runCycle
  split
  · split <;> simp
  · split <;> simp

@[simp] theorem State.respCycle_cfg : s.respCycle.cfg = s.cfg := by
  rw [State.respCycle]; split <;> rfl

@[simp] theorem State.readyCycle_cfg : s.readyCycle.cfg = s.cfg := by
  unfold State.readyCycle
  split <;> simp

@[simp] theorem State.resetCycle_cfg : s.resetCycle.cfg = s.cfg := rfl

@[simp] theorem State.tick_cfg : s.tick.cfg = s.cfg := by
  rcases s.tick_cases with ⟨-, h⟩ | ⟨-, -, h⟩ | ⟨-, -, -, h⟩ | ⟨-, -, -, ⟨-, h⟩ | ⟨-, h⟩ | ⟨-, h⟩ | ⟨-, h⟩⟩ <;>
    simp [h]

@[simp] theorem State.show_cfg (first : Bool) (pos : Fin 3) (g : GlyphRef) : (s.show first pos g).cfg = s.cfg :=
  (s.show_sends first pos g).cfg

@[simp] theorem State.showAll_cfg (g0 g1 g2 : GlyphRef) : (s.showAll g0 g1 g2).cfg = s.cfg :=
  (s.showAll_sends g0 g1 g2).cfg

@[simp] theorem State.clearSeq_cfg : s.clearSeq.cfg = s.cfg := State.showAll_cfg _ _ _ _

@[simp] theorem State.showDigits_cfg : s.showDigits.cfg = s.cfg := State.showAll_cfg _ _ _ _

@[simp] theorem State.respondAck_cfg (r : Resp) : (s.respondAck r).cfg = s.cfg := rfl

@[simp] theorem State.raiseInvalid_cfg : s.raiseInvalid.cfg = s.cfg := rfl

@[simp] theorem State.construct_cfg : s.construct.cfg = s.cfg := by simp [State.construct]

@[simp] theorem State.transmit_cfg (v : Byte) : (s.transmit v).cfg = s.cfg := by
  rw [State.transmit_eq, State.after_cfg]

theorem cfg_of_next {s t u : State} (h : (.next u : Host.Outcome State Fault Refusal) = .next t) (hu : u.cfg = s.cfg) :
    t.cfg = s.cfg :=
  Host.Outcome.next.inj h ▸ hu

/-- No instruction writes the configuration. -/
theorem exec_keeps_cfg {i : Instr} {s t : State} (h : exec i s = .next t) : t.cfg = s.cfg := by
  cases i with
  | init ign => exact cfg_of_next h (by simp)
  | setbrt ign level => exact cfg_of_next h (by split <;> simp)
  | clear ign => exact cfg_of_next h (by simp)
  | setdig ign pos glyph => exact cfg_of_next h (by split <;> simp)
  | setpat ign pos pat => exact cfg_of_next h (by split <;> simp)
  | setint value => exact cfg_of_next h (by simp)
  | illegalZero arg => exact cfg_of_next h (by simp)
  | illegalSeven arg => exact cfg_of_next h (by simp)
  | illegalHigh sub arg => exact cfg_of_next h (by simp)
  | fixedAddr => exact cfg_of_next h (by simp)
  | addr p =>
    rw [exec, execAddr] at h
    split at h
    · exact cfg_of_next h (by simp)
    · cases h
  | data v => exact cfg_of_next h (by simp)
  | dispOn b => exact cfg_of_next h (by simp)
  | dispOff => exact cfg_of_next h (by simp)

/-- The instruction is fetched under the configuration it runs under. -/
theorem State.fetch_cfg {s t : State} {i : Instr} (h : s.fetch = some (i, t)) : t.cfg = s.cfg := by
  unfold State.fetch at h
  split at h
  · split at h
    · cases h; rfl
    · cases h
  · split at h
    · split at h
      · cases h; rfl
      · cases h
    · cases h

/-- Settles O54: a step is a cycle, an instruction or the construction, and none of them writes the configuration. -/
theorem stepKeepsTheConfiguration : Obligations.StepKeepsTheConfiguration := by
  intro s t h
  rcases step_cases s with hs | ⟨-, -, i, u, hf, hs⟩ | ⟨-, -, -, -, hs⟩
  · exact cfg_of_next (hs.symm.trans h) s.tick_cfg
  · exact (exec_keeps_cfg (hs.symm.trans h)).trans (State.fetch_cfg (s := s.popRst) hf)
  · exact cfg_of_next (hs.symm.trans h) (State.construct_cfg s.popRst)

end Sys2Proof.Machine
end

section
/-! From the cycle in which a rendering request begins to its S1 (spec/41_bit_channel.md R146), and the reset values in that
stretch after reset (spec/10_state.md R38, spec/70_reset_and_hazards.md R231). -/

namespace Sys2Proof.Machine

/-- The request's first transaction is loaded, and the rest of ISSUE_LAT is to come. -/
def State.awaitBus (s : State) (pos : Fin 3) (g : GlyphRef) : State :=
  { s.startOpAck with ctl := { s.startOpAck.ctl with latCnt := s.params.issueLat - 1 } }.beginRender pos g

theorem State.beginBus_eq (s : State) (pos : Fin 3) (g : GlyphRef) : s.beginBus pos g = (s.awaitBus pos g).launch := rfl

section Awaited

variable {u : State} (hrst : u.env.rstIn = []) (hbusy : u.ctl.busy = true) (hvalid : u.ctl.respValid = false)
  (hstage : u.ctl.stage = .issue) (hwait : u.chan.waitCnt = 0)

include hrst hbusy hvalid hstage in
/-- Until the latency has run out, nothing but its count and the time moves on. -/
theorem State.tick_launched_before (n : Nat) (hn : n < u.ctl.latCnt) :
    State.tick^[n] (u.launch.pass 1) = { u with
      ctl := { u.ctl with latCnt := u.ctl.latCnt - n }, env := { u.env with cycles := u.env.cycles + (n + 1) } } := by
  have hkeep : u.launch = u := if_neg (by omega)
  rw [hkeep, State.tick_issueLat n (u.pass 1) hrst hbusy hvalid hstage hn]
  simp only [State.pass, Nat.add_assoc, Nat.add_comm 1 n]

include hrst hbusy hvalid hstage hwait in
/-- Once the latency has run out, S1 is the micro-op performed next. -/
theorem State.tick_launched : State.tick^[u.ctl.latCnt] (u.launch.pass 1) = { u with
    chan := { u.chan with pos := some .s1, waitCnt := 0 }
    ctl := { u.ctl with stage := .run, latCnt := 0 }
    env := { u.env with cycles := u.env.cycles + (u.ctl.latCnt + 1) } } := by
  rcases Nat.eq_zero_or_pos u.ctl.latCnt with hl | hl
  · have hgo : u.launch = { u.goTo .s1 with ctl := { u.ctl with stage := .run } } := if_pos ⟨hl, hwait⟩
    rw [hgo, hl]
    simp only [Function.iterate_zero, id_eq, State.pass, State.goTo, hwait, hl, Nat.zero_add]
  · have hkeep : u.launch = u := if_neg (by omega)
    have h := State.tick_launch (u.pass 1) hrst hbusy hvalid hstage (.inr ⟨hl, hwait⟩)
    simp only [State.pass_ctl, State.pass_chan, hwait, Nat.add_zero] at h
    rw [hkeep, h]
    simp only [State.pass, Nat.add_assoc, Nat.add_comm 1 u.ctl.latCnt]

end Awaited

/-- The construction's S1 is awaited: the state in the first cycle after reset, but for its time. -/
def State.awaitInit (s : State) : State :=
  ((s.outputMode.setBright brightDefault).setCurP 0).awaitBus 0 (blankRef s.params)

/-- The cycle after reset begins the construction (R231). -/
theorem State.tick_resetFor (c : Config) {e : Env} (h : e.rstIn = []) :
    (State.resetFor c e).tick = (State.resetFor c e).awaitInit.launch.pass 1 :=
  State.tick_live _ h

theorem State.resetFor_atReset (c : Config) (e : Env) : (State.resetFor c e).AtReset :=
  ⟨rfl, rfl, rfl, rfl, rfl, rfl, rfl, rfl, rfl, rfl, rfl, rfl, rfl, rfl, rfl, rfl⟩

/-- Awaiting the construction's S1, whatever the latency count and the time, the block holds the reset values. -/
theorem State.awaitInit_atReset (c : Config) (e e' : Env) (n : Nat) :
    State.AtReset { (State.resetFor c e).awaitInit with
      ctl := { (State.resetFor c e).awaitInit.ctl with latCnt := n }, env := e' } :=
  ⟨rfl, rfl, rfl, rfl, rfl, rfl, rfl, rfl, rfl, rfl, rfl, rfl, rfl, rfl, rfl, rfl⟩

/-- S1 performed, from the idle levels. -/
theorem State.tick_s1 {s : State} (hrst : s.env.rstIn = []) (hbusy : s.ctl.busy = true) (hvalid : s.ctl.respValid = false)
    (hstage : s.ctl.stage = .run) (hwait : s.chan.waitCnt = 0) (hpos : s.chan.pos = some .s1) (hpins : s.pins = Pins.idle) :
    s.tick.env.trace = .micro .s1 s.env.cycles true true true :: s.env.trace := by
  have h : s.tick = s.perform .s1 := by
    rw [State.tick_run s hrst hbusy hvalid hstage, State.runCycle, if_neg (by omega), hpos]
  have he : (s.perform .s1).env.trace = .micro .s1 s.env.cycles s.pins.clkOut true s.pins.dioOe :: s.env.trace := rfl
  rw [h, he, hpins]
  rfl

/-- Settles O57: the first cycle loads the first transaction, the others only count ISSUE_LAT down, and then S1 is due. -/
theorem resetValuesHoldUntilTheFirstMicroOp : Obligations.ResetValuesHoldUntilTheFirstMicroOp := by
  intro c e hrst
  obtain ⟨n, hn⟩ : ∃ n, c.val.issueLat = n + 1 :=
    ⟨c.val.issueLat - 1, (Nat.sub_add_cancel (State.resetFor c e).issueLat_pos).symm⟩
  have hlat : (State.resetFor c e).awaitInit.ctl.latCnt = n := by
    show c.val.issueLat - 1 = n
    omega
  have hdue := State.tick_launched (u := (State.resetFor c e).awaitInit) hrst rfl rfl rfl rfl
  rw [hlat, ← State.tick_resetFor c hrst, ← Function.iterate_succ_apply] at hdue
  refine ⟨fun j hj => ?_, ?_, ?_⟩
  · cases j with
    | zero => exact ⟨State.resetFor_atReset c e, rfl⟩
    | succ j =>
      rw [Function.iterate_succ_apply, State.tick_resetFor c hrst,
        State.tick_launched_before (u := (State.resetFor c e).awaitInit) hrst rfl rfl rfl j (by omega)]
      exact ⟨State.awaitInit_atReset c e _ _, rfl⟩
  · rw [hn, hdue]
  · rw [hn, Function.iterate_succ_apply', hdue]
    exact State.tick_s1 hrst rfl rfl rfl rfl rfl rfl

end Sys2Proof.Machine
end

section
/-! How a request ends: one response, after all of its micro-ops (spec/42_display_controller.md R161, spec/20_memory.md
R59); and the address no request has (R51, R56). -/

namespace Sys2Proof.Machine

/-! Micro-ops post no response. -/

theorem responses_append : ∀ a b : List PortEvent, responses (a ++ b) = responses a ++ responses b
  | [], _ => rfl
  | .micro _ _ _ _ _ :: a, b => responses_append a b
  | .response _ _ :: a, b => congrArg (List.cons _) (responses_append a b)
  | .reset _ :: a, b => responses_append a b

theorem responses_scriptEvents (q : Nat) : ∀ (l : List (MicroOp × Bool)) (p : Pins) (c : Nat),
    responses (scriptEvents q p c l) = []
  | [], _, _ => rfl
  | _ :: l, _, _ => responses_scriptEvents q l _ _

theorem responses_framesEvents (q g : Nat) : ∀ (frames : List (List Byte)) (first : Bool) (p : Pins) (c : Nat),
    responses (framesEvents q g first p c frames) = []
  | [], _, _, _ => rfl
  | _ :: frames, _, _, _ => by
    rw [framesEvents, responses_append, responses_scriptEvents, responses_framesEvents q g frames, List.append_nil]

/-- From s to u no response was posted. -/
def Unanswered (s u : State) : Prop := ∃ evs, Emits s u evs ∧ responses evs = []

/-- Writing registers shows nothing on the ports. -/
theorem Unanswered.of_trace_eq {s u : State} (h : u.env.trace = s.env.trace) : Unanswered s u := ⟨[], h, rfl⟩

/-- Transactions sent after registers were written post no response. -/
theorem Sends.unanswered {s u t : State} {first : Bool} {frames : List (List Byte)} {c : Control}
    (h : Sends u t first frames c) (hu : u.env.trace = s.env.trace) : Unanswered s t :=
  ⟨framesEvents _ _ _ _ _ frames, by rw [Emits, h.env, hu], responses_framesEvents _ _ _ _ _ _⟩

/-- Every request ends in `respond`, and has posted nothing before it (R161). -/
theorem exec_request_responds {i : Instr} (h : i.isRequest = true) (s : State) :
    ∃ u r, exec i s = .next (u.respond r) ∧ Unanswered s u := by
  cases i with
  | init ign => exact ⟨_, _, rfl, (State.showAll_sends _ _ _ _).unanswered rfl⟩
  | setbrt ign level =>
    rw [exec, execSetbrt]
    split
    · exact ⟨_, _, rfl, .of_trace_eq rfl⟩
    · exact ⟨_, _, rfl, .of_trace_eq rfl⟩
  | clear ign => exact ⟨_, _, rfl, (State.showAll_sends _ _ _ _).unanswered rfl⟩
  | setdig ign pos glyph =>
    rw [exec, execSetdig]
    split
    · exact ⟨_, _, rfl, (State.show_sends _ _ _ _).unanswered rfl⟩
    · exact ⟨_, _, rfl, .of_trace_eq rfl⟩
  | setpat ign pos pat =>
    rw [exec, execSetpat]
    split
    · exact ⟨_, _, rfl, (State.show_sends _ _ _ _).unanswered rfl⟩
    · exact ⟨_, _, rfl, .of_trace_eq rfl⟩
  | setint value => exact ⟨_, _, rfl, (State.showAll_sends _ _ _ _).unanswered rfl⟩
  | illegalZero arg => exact ⟨_, _, rfl, .of_trace_eq rfl⟩
  | illegalSeven arg => exact ⟨_, _, rfl, .of_trace_eq rfl⟩
  | illegalHigh sub arg => exact ⟨_, _, rfl, .of_trace_eq rfl⟩
  | fixedAddr | addr p | data v | dispOn b | dispOff => cases h

/-- The response is the last event, in the cycle that ends the request. -/
theorem Emits.respond {s u : State} {evs : List PortEvent} (h : Emits s u evs) (r : Resp) :
    Emits s (u.respond r)
      (evs ++ [.response (u.respond r).ctl.lastResp ((u.respond r).env.cycles - 1)]) := by
  rw [Emits] at h
  simp [Emits, h]

/-- Settles O35: a request is a run that posts nothing, and then `respond`. -/
theorem oneResponsePerRequest : Obligations.OneResponsePerRequest := by
  intro i s hi
  obtain ⟨u, r, hexec, evs, hu, hevs⟩ := exec_request_responds hi s
  exact ⟨u.respond r, hexec, rfl, rfl, evs, hu.respond r, hevs⟩

/-- An address off the three digits is refused (log 10). -/
theorem exec_addr_of_three_le {p : BitVec 2} (h : 3 ≤ p.toNat) (s : State) :
    exec (.addr p) s = .refused .noSuchDigit := by
  rw [exec, execAddr, dif_neg (Nat.not_lt.mpr h)]

/-- Settles O38: 3 is not below `execAddr`'s bound. -/
theorem noFourthDigit : Obligations.NoFourthDigit := exec_addr_of_three_le (p := 3) (by decide)

end Sys2Proof.Machine
end

section
/-! Request words: a word is its OP field above its operand field (spec/30_encoding.md R71 to R79, R86). -/

namespace Sys2Proof

/-- The OP field of a request (R71, R79). -/
def Instr.opcode : Instr → BitVec 4
  | .init _ => 1
  | .setbrt _ _ => 2
  | .clear _ => 3
  | .setdig _ _ _ => 4
  | .setpat _ _ _ => 5
  | .setint _ => 6
  | .illegalSeven _ => 7
  | .illegalHigh sub _ => (1 : BitVec 1) ++ sub
  | .illegalZero _ | .fixedAddr | .addr _ | .data _ | .dispOn _ | .dispOff => 0

/-- The bits of a request below OP, ignored bits and operands (R72 to R77). -/
def Instr.operand : Instr → BitVec 28
  | .init ign | .clear ign => ign
  | .setbrt ign level => ign ++ level
  | .setdig ign pos v | .setpat ign pos v => ign ++ pos ++ v
  | .setint value => value
  | .illegalZero arg | .illegalSeven arg | .illegalHigh _ arg => arg
  | .fixedAddr | .addr _ | .data _ | .dispOn _ | .dispOff => 0

/-- A request's word. -/
theorem encodeRequest_eq {i : Instr} (h : i.isRequest = true) : encodeRequest i = some (i.opcode ++ i.operand) := by
  cases i with
  | setbrt ign level => exact congrArg some BitVec.append_assoc
  | setdig ign pos v | setpat ign pos v =>
    exact congrArg some ((congrArg (· ++ v) BitVec.append_assoc).trans BitVec.append_assoc)
  | init ign | clear ign | setint value | illegalZero arg | illegalSeven arg | illegalHigh sub arg => rfl
  | fixedAddr | addr p | data v | dispOn b | dispOff => cases h

theorem isRequest_of_encodeRequest {i : Instr} {w : ReqWord} (h : encodeRequest i = some w) : i.isRequest = true := by
  cases i with
  | init | setbrt | clear | setdig | setpat | setint | illegalZero | illegalSeven | illegalHigh => rfl
  | fixedAddr | addr | data | dispOn | dispOff => cases h

/-- The request of an OP and the bits below it. -/
def requestOf (op : BitVec 4) (arg : BitVec 28) : Instr :=
  match op.toNat with
  | 0 => .illegalZero arg
  | 1 => .init arg
  | 2 => .setbrt (arg.extractLsb' 8 20) (arg.extractLsb' 0 8)
  | 3 => .clear arg
  | 4 => .setdig (arg.extractLsb' 16 12) (arg.extractLsb' 8 8) (arg.extractLsb' 0 8)
  | 5 => .setpat (arg.extractLsb' 16 12) (arg.extractLsb' 8 8) (arg.extractLsb' 0 8)
  | 6 => .setint arg
  | 7 => .illegalSeven arg
  | _ => .illegalHigh (op.setWidth 3) arg

/-- A word decodes by its OP field and the field below. -/
theorem decodeRequest_eq (w : ReqWord) : decodeRequest w = requestOf (w.extractLsb' 28 4) (w.extractLsb' 0 28) := by
  have hfield : ∀ start len, start + len ≤ 28 →
      w.extractLsb' start len = (w.extractLsb' 0 28).extractLsb' start len :=
    fun _ _ h => (BitVec.extractLsb'_extractLsb'_of_le h).symm
  have hsub : w.extractLsb' 28 3 = (w.extractLsb' 28 4).setWidth 3 :=
    (BitVec.setWidth_extractLsb'_of_le (by decide)).symm
  rw [decodeRequest, requestOf, hsub, hfield 8 20 (by decide), hfield 0 8 (by decide), hfield 16 12 (by decide),
    hfield 8 8 (by decide)] <;> rfl

/-- An OP of 8 to 15 is illegal (R79). -/
theorem requestOf_of_high {op : BitVec 4} (h : 8 ≤ op.toNat) (arg : BitVec 28) :
    requestOf op arg = .illegalHigh (op.setWidth 3) arg := by
  unfold requestOf
  split
  case h_9 => rfl
  all_goals omega

/-- An OP of 8 to 15 is a 1 above its low three bits. -/
theorem one_append_low : ∀ op : BitVec 4, 8 ≤ op.toNat → (1 : BitVec 1) ++ op.setWidth 3 = op := by
  decide

theorem one_append_high : ∀ k : BitVec 3, 8 ≤ ((1 : BitVec 1) ++ k).toNat := by
  decide

theorem requestOf_isRequest (op : BitVec 4) (arg : BitVec 28) : (requestOf op arg).isRequest = true := by
  unfold requestOf
  split <;> rfl

theorem opcode_requestOf (op : BitVec 4) (arg : BitVec 28) : (requestOf op arg).opcode = op := by
  unfold requestOf
  split
  case h_9 =>
    simp only [imp_false] at *
    exact one_append_low op (by omega)
  all_goals next h => exact BitVec.eq_of_toNat_eq h.symm

theorem operand_requestOf (op : BitVec 4) (arg : BitVec 28) : (requestOf op arg).operand = arg := by
  have hlevel : arg.extractLsb' 8 20 ++ arg.extractLsb' 0 8 = arg := BitVec.extractLsb'_append_extractLsb'
  have hpos : arg.extractLsb' 16 12 ++ arg.extractLsb' 8 8 = arg.extractLsb' 8 20 :=
    BitVec.extractLsb'_append_extractLsb'_eq_extractLsb' rfl
  unfold requestOf
  split
  case h_3 => exact hlevel
  case h_5 | h_6 => exact (congrArg (· ++ arg.extractLsb' 0 8) hpos).trans hlevel
  all_goals rfl

/-- The fields of SETDIG's and SETPAT's operand. -/
theorem operand_fields (ign : BitVec 12) (a b : Byte) :
    (ign ++ a ++ b).extractLsb' 16 12 = ign ∧ (ign ++ a ++ b).extractLsb' 8 8 = a ∧
      (ign ++ a ++ b).extractLsb' 0 8 = b :=
  ⟨(BitVec.extractLsb'_append_eq_of_le (by decide)).trans BitVec.extractLsb'_append_eq_left,
    (BitVec.extractLsb'_append_eq_of_le (by decide)).trans BitVec.extractLsb'_append_eq_right,
    BitVec.extractLsb'_append_eq_right⟩

/-- A request is the request of its OP and the bits below it. -/
theorem requestOf_opcode_operand {i : Instr} (h : i.isRequest = true) : requestOf i.opcode i.operand = i := by
  cases i with
  | setbrt ign level =>
    exact congrArg₂ Instr.setbrt BitVec.extractLsb'_append_eq_left BitVec.extractLsb'_append_eq_right
  | setdig ign pos glyph =>
    obtain ⟨hign, hpos, hglyph⟩ := operand_fields ign pos glyph
    exact congr (congrArg₂ Instr.setdig hign hpos) hglyph
  | setpat ign pos pat =>
    obtain ⟨hign, hpos, hpat⟩ := operand_fields ign pos pat
    exact congr (congrArg₂ Instr.setpat hign hpos) hpat
  | illegalHigh k arg =>
    have hk : ((1 : BitVec 1) ++ k).setWidth 3 = k := BitVec.setWidth_append_eq_right
    exact (requestOf_of_high (one_append_high k) arg).trans (congrArg (Instr.illegalHigh · arg) hk)
  | init ign | clear ign | setint value | illegalZero arg | illegalSeven arg => rfl
  | fixedAddr | addr p | data v | dispOn b | dispOff => cases h

theorem decodeRequest_append (op : BitVec 4) (arg : BitVec 28) : decodeRequest (op ++ arg) = requestOf op arg := by
  rw [decodeRequest_eq, BitVec.extractLsb'_append_eq_left, BitVec.extractLsb'_append_eq_right]

/-- Settles O1: a request's word is its OP above its operand bits, and `requestOf` gives the request back from the
two. -/
theorem decodeInvertsEncodeRequest : Obligations.DecodeInvertsEncodeRequest := fun _ hi =>
  ⟨_, encodeRequest_eq hi, (decodeRequest_append _ _).trans (requestOf_opcode_operand hi)⟩

/-- Settles O2: the request a word decodes to has the word's two fields, and by `decodeInvertsEncodeRequest` it is the
only one with that word. -/
theorem everyWordIsOneRequest : Obligations.EveryWordIsOneRequest := by
  intro w
  rw [decodeRequest_eq]
  have hreq := requestOf_isRequest (w.extractLsb' 28 4) (w.extractLsb' 0 28)
  refine ⟨hreq, ?_, fun i hi => ?_⟩
  · rw [encodeRequest_eq hreq, opcode_requestOf, operand_requestOf, BitVec.extractLsb'_append_extractLsb']
  · obtain ⟨v, hv, hdecode⟩ := decodeInvertsEncodeRequest i (isRequest_of_encodeRequest hi)
    obtain rfl : w = v := Option.some.inj (hi.symm.trans hv)
    exact hdecode.symm.trans (decodeRequest_eq w)

/-- A request's OP can be read off it. -/
theorem op_eq_of_requestOf_eq {op : BitVec 4} {arg : BitVec 28} {i : Instr} (h : requestOf op arg = i) :
    op = i.opcode :=
  h ▸ (opcode_requestOf op arg).symm

/-- The ILLEGAL rows (R79). -/
def Instr.Illegal (i : Instr) : Prop :=
  ∃ a, i = .illegalZero a ∨ i = .illegalSeven a ∨ ∃ k, i = .illegalHigh k a

/-- The OPs of the ILLEGAL rows are 0 and 7 to 15. -/
theorem requestOf_illegal_iff {op : BitVec 4} {arg : BitVec 28} :
    (requestOf op arg).Illegal ↔ op = 0 ∨ 7 ≤ op.toNat := by
  constructor
  · rintro ⟨a, h | h | ⟨k, h⟩⟩
    · exact .inl (op_eq_of_requestOf_eq h)
    · exact .inr (Nat.le_of_eq (congrArg BitVec.toNat (op_eq_of_requestOf_eq h).symm))
    · exact .inr (op_eq_of_requestOf_eq h ▸ Nat.le_of_lt (one_append_high k))
  · rintro (rfl | h)
    · exact ⟨arg, .inl rfl⟩
    · rcases Nat.eq_or_lt_of_le h with h7 | h8
      · obtain rfl : op = 7 := BitVec.eq_of_toNat_eq h7.symm
        exact ⟨arg, .inr (.inl rfl)⟩
      · exact ⟨arg, .inr (.inr ⟨_, requestOf_of_high h8 arg⟩)⟩

/-- Settles O5: a row's OP can be read off the request, and `requestOf` at each legal OP is that OP's row. -/
theorem opFieldSelectsRequest : Obligations.OpFieldSelectsRequest := by
  intro w
  rw [decodeRequest_eq]
  refine ⟨⟨fun ⟨_, h⟩ => op_eq_of_requestOf_eq h, fun h => ?_⟩,
    ⟨fun ⟨_, _, h⟩ => op_eq_of_requestOf_eq h, fun h => ?_⟩,
    ⟨fun ⟨_, h⟩ => op_eq_of_requestOf_eq h, fun h => ?_⟩,
    ⟨fun ⟨_, _, _, h⟩ => op_eq_of_requestOf_eq h, fun h => ?_⟩,
    ⟨fun ⟨_, _, _, h⟩ => op_eq_of_requestOf_eq h, fun h => ?_⟩,
    ⟨fun ⟨_, h⟩ => op_eq_of_requestOf_eq h, fun h => ?_⟩, requestOf_illegal_iff⟩
  all_goals rw [h]
  · exact ⟨_, rfl⟩
  · exact ⟨_, _, rfl⟩
  · exact ⟨_, rfl⟩
  · exact ⟨_, _, _, rfl⟩
  · exact ⟨_, _, _, rfl⟩
  · exact ⟨_, rfl⟩

/-- Settles O4: closed words and bytes, each decoded by evaluation. -/
theorem specWordsDecode : Obligations.SpecWordsDecode := by
  unfold Obligations.SpecWordsDecode
  decide

end Sys2Proof
end

section
/-! Wire bytes: what a byte in a command's place decodes to (spec/30_encoding.md R81, R82), and what a wire command does
(spec/41_bit_channel.md R126 to R135). -/

namespace Sys2Proof

/-! Byte distances modulo 256. -/

/-- A byte n or more above the base is none of the base's first n. -/
theorem base_add_ne {a base e : Byte} {n : Nat} (ha : n ≤ (a - base).toNat) (he : e.toNat < n) : base + e ≠ a := by
  rintro rfl
  rw [add_sub_cancel_left] at ha
  exact Nat.not_lt.2 ha he

/-- The first m bytes from a on are n or more above b, where a is, and b is m or more above a. -/
theorem le_base_add_sub {a b e : Byte} {n m : Nat} (hab : n ≤ (a - b).toNat) (hba : m ≤ (b - a).toNat)
    (he : e.toNat < m) : n ≤ (a + e - b).toNat := by
  rw [← neg_sub a b, BitVec.toNat_neg] at hba
  rw [BitVec.add_sub_comm, BitVec.toNat_add]
  have := (a - b).isLt
  omega

theorem setWidth_eight_toNat {n : Nat} (hn : n ≤ 8) (x : BitVec n) : (x.setWidth 8).toNat = x.toNat :=
  BitVec.toNat_setWidth_of_le hn

/-- The operand's bits in the byte are the operand. -/
theorem extract_setWidth_eight {n : Nat} (hn : n ≤ 8) (x : BitVec n) : (x.setWidth 8).extractLsb' 0 n = x := by
  rw [BitVec.extractLsb'_setWidth_of_le (by omega), BitVec.extractLsb'_eq_self]

/-! Each command's byte, where the command values do not overlap. -/

theorem decodeCommand_fixedAddr (p : Params) : decodeCommand p p.cmdFixedAddr = some .fixedAddr := if_pos rfl

section Distinct

variable {p : Params} (h : p.commandsDistinct = true)

include h

/-- How far the command values are apart. -/
theorem Params.command_distances : 3 ≤ (p.cmdFixedAddr - p.cmdAddrBase).toNat ∧
    8 ≤ (p.cmdFixedAddr - p.cmdDispOnBase).toNat ∧ p.cmdFixedAddr ≠ p.cmdDispOff ∧
    8 ≤ (p.cmdAddrBase - p.cmdDispOnBase).toNat ∧ 3 ≤ (p.cmdDispOnBase - p.cmdAddrBase).toNat ∧
    3 ≤ (p.cmdDispOff - p.cmdAddrBase).toNat ∧ 8 ≤ (p.cmdDispOff - p.cmdDispOnBase).toNat := by
  simpa only [Params.commandsDistinct, Bool.and_eq_true, decide_eq_true_eq, and_assoc] using h

theorem decodeCommand_addr {pos : BitVec 2} (hpos : pos.toNat < 3) :
    decodeCommand p (p.cmdAddrBase + pos.setWidth 8) = some (.addr pos) := by
  obtain ⟨hfixed, -⟩ := Params.command_distances h
  rw [← setWidth_eight_toNat (by decide)] at hpos
  rw [decodeCommand, if_neg (base_add_ne hfixed hpos), add_sub_cancel_left, if_pos hpos,
    extract_setWidth_eight (by decide)]

theorem decodeCommand_dispOn (b : BitVec 3) : decodeCommand p (p.cmdDispOnBase + b.setWidth 8) = some (.dispOn b) := by
  obtain ⟨-, hfixed, -, haddr, hdisp, -, -⟩ := Params.command_distances h
  have hb : (b.setWidth 8).toNat < 8 := (setWidth_eight_toNat (by decide) b).trans_lt b.isLt
  rw [decodeCommand, if_neg (base_add_ne hfixed hb), if_neg (Nat.not_lt.2 (le_base_add_sub hdisp haddr hb)),
    add_sub_cancel_left, if_pos hb, extract_setWidth_eight (by decide)]

theorem decodeCommand_dispOff : decodeCommand p p.cmdDispOff = some .dispOff := by
  obtain ⟨-, -, hfixed, -, -, haddr, hdisp⟩ := Params.command_distances h
  rw [decodeCommand, if_neg hfixed.symm, if_neg (Nat.not_lt.2 haddr), if_neg (Nat.not_lt.2 hdisp), if_pos rfl]

end Distinct

theorem decodeWire_command {p : Params} {b : Byte} {i : Instr} (h : decodeCommand p b = some i) :
    decodeWire p .command b = .ok i := by
  rw [decodeWire, h]

/-- Settles O3: DATA is read by its place, and each other command by its value. -/
theorem wireBytesDecodeInPlace : Obligations.WireBytesDecodeInPlace := by
  intro p i b h hwf henc
  cases i with
  | data v =>
    obtain rfl := Option.some.inj henc
    exact ⟨fun _ _ => rfl, fun hne => absurd rfl (hne v)⟩
  | fixedAddr =>
    obtain rfl := Option.some.inj henc
    exact ⟨nofun, fun _ => decodeWire_command (decodeCommand_fixedAddr p)⟩
  | addr pos =>
    obtain rfl := Option.some.inj henc
    exact ⟨nofun, fun _ => decodeWire_command (decodeCommand_addr h (of_decide_eq_true hwf))⟩
  | dispOn v =>
    obtain rfl := Option.some.inj henc
    exact ⟨nofun, fun _ => decodeWire_command (decodeCommand_dispOn h v)⟩
  | dispOff =>
    obtain rfl := Option.some.inj henc
    exact ⟨nofun, fun _ => decodeWire_command (decodeCommand_dispOff h)⟩
  | init | setbrt | clear | setdig | setpat | setint | illegalZero | illegalSeven | illegalHigh => cases henc

end Sys2Proof

namespace Sys2Proof.Machine

/-! Running a wire command. -/

/-- A wire command shifts out the byte it is encoded as. -/
theorem exec_wire {s : State} {i : Instr} {b : Byte} (hwf : i.wellFormed = true)
    (henc : encodeWire s.params i = some b) : exec i s = .next (s.transmit b) := by
  cases i with
  | addr pos =>
    obtain rfl := Option.some.inj henc
    have hpos : pos.toNat < 3 := of_decide_eq_true hwf
    have hbyte : addrByte s.params ⟨pos.toNat, hpos⟩ = s.params.cmdAddrBase + pos.setWidth 8 := by
      rw [addrByte, BitVec.ofNat_toNat]
    rw [exec, execAddr, dif_pos hpos, hbyte]
  | fixedAddr | data v | dispOn v | dispOff =>
    obtain rfl := Option.some.inj henc
    rfl
  | init | setbrt | clear | setdig | setpat | setint | illegalZero | illegalSeven | illegalHigh => cases henc

/-- A byte takes 31 micro-ops and 35 quarter units (R141). -/
theorem scriptCycles_byteScript (q : Nat) (b : Byte) : scriptCycles q (byteScript b) = 31 + 35 * q := by
  have hbit : ∀ v, scriptCycles q (bitScript v) = 3 + 4 * q := by
    intro v
    simp only [bitScript, scriptCycles, List.map, List.sum_cons, List.sum_nil, waitOf]
    omega
  rw [byteScript, scriptCycles_append, scriptCycles_flatMap q _ bitScript hbit]
  simp only [levelsOfByte, List.length_map, List.length_range, ackScript, scriptCycles, List.map, List.sum_cons,
    List.sum_nil, waitOf]
  omega

/-- The acknowledgment leaves CLK low and DIO driven low (R134, R135). -/
theorem scriptPins_byteScript (p : Pins) (b : Byte) :
    scriptPins p (byteScript b) = { clkOut := false, dioOut := false, dioOe := true } := by
  rw [byteScript, scriptPins_append]
  rfl

/-- CLK rises once for each data bit, with the bit on DIO (R126). -/
theorem risingLevels_bits (q : Nat) (r : List PortEvent) : ∀ (l : List Bool) (p : Pins) (c : Nat),
    risingLevels p.clkOut (scriptEvents q p c (l.flatMap bitScript) ++ r) =
      l ++ risingLevels (scriptPins p (l.flatMap bitScript)).clkOut r := by
  intro l
  induction l with
  | nil => intro p c; rfl
  | cons v l ih =>
    intro p c
    rw [List.flatMap_cons, scriptEvents_append, scriptPins_append, List.append_assoc, List.cons_append,
      ← ih (scriptPins p (bitScript v)) (scriptEnd q c (bitScript v))]
    simp [bitScript, scriptEvents, opEvent, pinsAfter, actionOf, risingLevels, scriptPins]

/-- CLK rises once for each data bit, and a ninth time with DIO released (R128, R142). -/
theorem risingLevels_byteScript (q : Nat) (p : Pins) (c : Nat) (b : Byte) :
    risingLevels p.clkOut (scriptEvents q p c (byteScript b)) = levelsOfByte b ++ [true] := by
  rw [byteScript, scriptEvents_append, risingLevels_bits]
  simp [ackScript, scriptEvents, opEvent, pinsAfter, actionOf, risingLevels]

section AfterByte

variable (c : Channel) (d : List Bool) (n : Nat)

@[simp] theorem Channel.afterByte_frame : (c.afterByte d n).frame = c.frame := by
  unfold Channel.afterByte; split <;> rfl

@[simp] theorem Channel.afterByte_frameLen : (c.afterByte d n).frameLen = c.frameLen := by
  unfold Channel.afterByte; split <;> rfl

@[simp] theorem Channel.afterByte_waitCnt : (c.afterByte d n).waitCnt = 0 := by
  unfold Channel.afterByte; split <;> rfl

@[simp] theorem Channel.afterByte_ackAcc : (c.afterByte d n).ackAcc = foldSample c.ackAcc (nextLevel d n) := by
  unfold Channel.afterByte; split <;> rfl

variable {c}

/-- Before the frame's end, its next byte follows (R135). -/
theorem Channel.afterByte_of_more (h : c.byteIdx.toNat < c.frameLen.toNat - 1) :
    (c.afterByte d n).pos = some .b1 ∧ (c.afterByte d n).bitIdx = 0 ∧
      (c.afterByte d n).byteIdx = c.byteIdx + 1 := by
  rw [Channel.afterByte, if_pos h]
  exact ⟨rfl, rfl, rfl⟩

/-- After the frame's last byte, STOP follows (R135). -/
theorem Channel.afterByte_of_last (h : ¬ c.byteIdx.toNat < c.frameLen.toNat - 1) :
    (c.afterByte d n).pos = some .p1 ∧ (c.afterByte d n).byteIdx = c.byteIdx := by
  rw [Channel.afterByte, if_neg h]
  exact ⟨rfl, rfl⟩

end AfterByte

/-- The level of the next sample is that of the first coming one. -/
theorem State.nextLevel_eq (s : State) : nextLevel s.env.dioIn s.env.draws = s.sampleAt 0 := by
  rw [nextLevel, State.sampleAt, Nat.add_zero, List.headD_eq_getD]

/-- Settles O37: a wire command is `transmit` of its byte, whose whole effect `State.transmit_eq` gives. -/
theorem wireCommandsShiftTheirByte : Obligations.WireCommandsShiftTheirByte := by
  intro s i b _ hwf henc
  have hpins := scriptPins_byteScript s.pins b
  have hack : ((s.placeByte b).chan.afterByte s.env.dioIn s.env.draws).ackAcc = (s.chan.ackAcc && !s.sampleAt 0) := by
    rw [Channel.afterByte_ackAcc, State.nextLevel_eq]
    rfl
  have hmore := Channel.afterByte_of_more (c := (s.placeByte b).chan) s.env.dioIn s.env.draws
  have hlast := Channel.afterByte_of_last (c := (s.placeByte b).chan) s.env.dioIn s.env.draws
  have hcycles := scriptEnd_eq s.params.qCycles (byteScript b) s.env.cycles
  rw [scriptCycles_byteScript] at hcycles
  have hops := opTimes_ops s.params.qCycles (byteScript b) s.pins s.env.cycles
  have hlevels := risingLevels_byteScript s.params.qCycles s.pins s.env.cycles b
  refine ⟨_, exec_wire hwf henc, ?_⟩
  rw [State.transmit_eq]
  exact ⟨rfl, rfl, hpins, hack, Channel.afterByte_frame _ _ _, Channel.afterByte_frameLen _ _ _,
    Channel.afterByte_waitCnt _ _ _, hmore, hlast, rfl, rfl, rfl, rfl, rfl, hcycles, _, rfl, hops, hlevels⟩

end Sys2Proof.Machine
end

section
/-! The assembler (spec/30_encoding.md R84, R85) and the bits of a glyph reference (R83, R105). -/

namespace Sys2Proof

/-! Operands: what fits, and what is refused. -/

theorem fitsField_eight (n : Nat) : fitsField 8 n = if n ≤ 255 then some (BitVec.ofNat 8 n) else none := by
  rw [fitsField]
  exact if_congr Nat.lt_succ_iff rfl rfl

/-- Two operands fit when each does. -/
theorem fitsField_two (f : Byte → Byte → Instr) (a b : Nat) :
    ((fitsField 8 a).bind fun x => (fitsField 8 b).map (f x)) =
      if a ≤ 255 ∧ b ≤ 255 then some (f (BitVec.ofNat 8 a) (BitVec.ofNat 8 b)) else none := by
  rw [fitsField_eight, fitsField_eight]
  by_cases ha : a ≤ 255 <;> by_cases hb : b ≤ 255 <;> simp [ha, hb]

theorem fitsValue_eq (v : Int) :
    fitsValue v = if -(2 ^ 27) ≤ v ∧ v ≤ 2 ^ 27 - 1 then some (BitVec.ofInt 28 v) else none := by
  rw [fitsValue]
  exact if_congr (by omega) rfl rfl

/-! The fields of a word, each shifted to its place. -/

/-- A byte operand, as a byte and as a word. -/
theorem setWidth_ofNat_eight {n : Nat} (h : n ≤ 255) : (BitVec.ofNat 8 n).setWidth 32 = BitVec.ofNat 32 n := by
  apply BitVec.eq_of_toNat_eq
  simp only [BitVec.toNat_setWidth, BitVec.toNat_ofNat]
  omega

/-- SETINT's operand, as 28 bits and as a word. -/
theorem setWidth_ofInt_twentyEight (v : Int) : (BitVec.ofInt 28 v).setWidth 32 = BitVec.ofInt 32 (v % 2 ^ 28) := by
  apply BitVec.eq_of_toNat_eq
  simp only [BitVec.toNat_setWidth, BitVec.toNat_ofInt]
  omega

theorem word_of_value (op : BitVec 4) (v : Int) :
    op ++ BitVec.ofInt 28 v = op.setWidth 32 <<< 28 ||| BitVec.ofInt 32 (v % 2 ^ 28) := by
  rw [← setWidth_ofInt_twentyEight, ← BitVec.setWidth_append_eq_shiftLeft_setWidth_or, BitVec.setWidth_eq]

theorem word_of_operand (op : BitVec 4) {a : Nat} (ha : a ≤ 255) :
    op ++ (0 : BitVec 20) ++ BitVec.ofNat 8 a = op.setWidth 32 <<< 28 ||| BitVec.ofNat 32 a := by
  have h := BitVec.setWidth_append_append_eq_shiftLeft_setWidth_or (w''' := 32)
    (b := op) (b' := (0 : BitVec 20)) (b'' := BitVec.ofNat 8 a)
  rw [BitVec.setWidth_eq, setWidth_ofNat_eight ha] at h
  simpa using h

theorem word_of_operands (op : BitVec 4) {a b : Nat} (ha : a ≤ 255) (hb : b ≤ 255) :
    op ++ (0 : BitVec 12) ++ BitVec.ofNat 8 a ++ BitVec.ofNat 8 b =
      op.setWidth 32 <<< 28 ||| BitVec.ofNat 32 a <<< 8 ||| BitVec.ofNat 32 b := by
  have h := BitVec.setWidth_append_append_append_eq_shiftLeft_setWidth_or (w'''' := 32)
    (b := op) (b' := (0 : BitVec 12)) (b'' := BitVec.ofNat 8 a) (b''' := BitVec.ofNat 8 b)
  rw [BitVec.setWidth_eq, setWidth_ofNat_eight ha, setWidth_ofNat_eight hb] at h
  simpa using h

/-- Settles O7: an operand is refused by `fitsField` or `fitsValue`, or stands shifted to its place in the word. -/
theorem assemblerWords : Obligations.AssemblerWords := by
  intro p a b v
  refine ⟨by rfl, by rfl, ?_, ?_, ?_, ?_, ?_⟩
  · rw [assembleWord, assemble, fitsField_eight]
    split
    · next ha => exact congrArg some (word_of_operand 2 ha)
    · rfl
  · rw [assembleWord, assemble, fitsField_two]
    split
    · next h => exact congrArg some (word_of_operands 4 h.1 h.2)
    · rfl
  · rw [assembleWord, assemble, fitsField_two]
    split
    · next h => exact congrArg some (word_of_operands 5 h.1 h.2)
    · rfl
  · rw [assembleWord, assemble, fitsValue_eq]
    split
    · exact congrArg some (word_of_value 6 v)
    · rfl
  · have hblank : p.blankIndex.val ≤ 255 := by omega
    rw [assembleWord, assembleWord, assemble, assemble, fitsField_eight p.blankIndex.val, if_pos hblank]
    cases fitsField 8 a <;> rfl

end Sys2Proof

namespace Sys2Proof.Machine

/-! Glyph references. -/

theorem glyphBits_raw_kind (v : Byte) : (glyphBits (.raw v)).getLsbD 8 = true := by
  rw [glyphBits, BitVec.getLsbD_append]
  rfl

theorem glyphBits_raw_value (v : Byte) : (glyphBits (.raw v)).extractLsb' 0 8 = v :=
  BitVec.extractLsb'_append_eq_right

theorem glyphBits_index_fields : ∀ i : Fin 23,
    (glyphBits (.index i)).getLsbD 8 = false ∧ ((glyphBits (.index i)).extractLsb' 0 8).toNat = i.val := by
  decide

theorem glyphOfBits_glyphBits : ∀ g : GlyphRef, glyphOfBits (glyphBits g) = some g
  | .raw v => by rw [glyphOfBits, if_pos (glyphBits_raw_kind v), glyphBits_raw_value]
  | .index i => by
    obtain ⟨hkind, hvalue⟩ := glyphBits_index_fields i
    simp only [glyphOfBits, hkind, hvalue, Bool.false_eq_true, if_false, dif_pos i.isLt]

/-- A table index off the table is refused (R105). -/
theorem glyphOfBits_off_table {b : BitVec 9} (hkind : b.getLsbD 8 = false) (hvalue : 23 ≤ (b.extractLsb' 0 8).toNat) :
    glyphOfBits b = none := by
  rw [glyphOfBits, hkind, if_neg Bool.false_ne_true, dif_neg (Nat.not_lt.2 hvalue)]

/-- Settles O9: K and V are read off `glyphBits`, and `glyphOfBits` takes them apart the same way. -/
theorem glyphReferenceBits : Obligations.GlyphReferenceBits :=
  ⟨glyphOfBits_glyphBits, glyphBits_index_fields, fun v => ⟨glyphBits_raw_kind v, glyphBits_raw_value v⟩,
    fun _ => glyphOfBits_off_table⟩

end Sys2Proof.Machine
end

section
/-! What a request does with its bits: an illegal OP is only answered (spec/30_encoding.md R79), and CUR_ARG, where the
ignored bits are latched too (R78, spec/42_display_controller.md R160), is read by no transaction and no response. -/

namespace Sys2Proof.Machine

/-! An illegal OP. -/

/-- A request that raises INVALID has no effect but its answer (spec/60_exceptions.md R202). -/
theorem State.latch_raiseInvalid (s : State) (op : BitVec 4) (arg : BitVec 28) :
    OnlyAnswered s (s.latch op arg).raiseInvalid s.ctl op arg .invalid := rfl

/-- The ILLEGAL rows share one meaning. -/
theorem exec_illegal {i : Instr} (h : i.Illegal) (s : State) :
    ∃ t, exec i s = .next t ∧ OnlyAnswered s t s.ctl i.opcode i.operand .invalid := by
  refine ⟨(s.latch i.opcode i.operand).raiseInvalid, ?_, State.latch_raiseInvalid _ _ _⟩
  obtain ⟨a, rfl | rfl | ⟨k, rfl⟩⟩ := h
  · rfl
  · rfl
  · rfl

/-- The OP of the third ILLEGAL row, as a sum. -/
theorem one_append_eq_eight_add : ∀ k : BitVec 3, (1 : BitVec 1) ++ k = 8 + k.setWidth 4 := by
  decide

/-- Settles O32: the terms by `exec_illegal`, and a word by the OP and the operand bits of the term it decodes to. -/
theorem illegalOpsOnlyAnswer : Obligations.IllegalOpsOnlyAnswer := by
  intro s arg k
  refine ⟨exec_illegal ⟨arg, .inl rfl⟩ s, exec_illegal ⟨arg, .inr (.inl rfl)⟩ s, ?_, fun w hw => ?_⟩
  · rw [← one_append_eq_eight_add]
    exact exec_illegal ⟨arg, .inr (.inr ⟨k, rfl⟩)⟩ s
  · have h := exec_illegal (requestOf_illegal_iff (arg := w.extractLsb' 0 28).2 hw) s
    rwa [opcode_requestOf, operand_requestOf, ← decodeRequest_eq] at h

/-! CUR_ARG is read by no transaction and no response. -/

/-- s with another value in CUR_ARG. -/
def State.withArg (s : State) (a : BitVec 28) : State := { s with ctl := { s.ctl with curArg := a } }

section WithArg

variable (s : State) (a : BitVec 28)

theorem State.send_withArg (bytes : List Byte) (h1 : 1 ≤ bytes.length) (h4 : bytes.length ≤ 4) :
    (s.withArg a).send bytes = (s.send bytes).withArg a := by
  rw [State.send_eq _ bytes h1 h4, State.send_eq _ bytes h1 h4]
  rfl

theorem State.sendFrame_withArg (first : Bool) (tx : Fin 3) (bytes : List Byte) (h1 : 1 ≤ bytes.length)
    (h4 : bytes.length ≤ 4) : (s.withArg a).sendFrame first tx bytes = (s.sendFrame first tx bytes).withArg a := by
  cases first with
  | true => exact congrArg State.foldOpAck (State.send_withArg (s.setCurTx tx) a bytes h1 h4)
  | false => exact congrArg State.foldOpAck (State.send_withArg (s.gap.setCurTx tx) a bytes h1 h4)

theorem State.sendFrames_withArg : ∀ (frames : List (List Byte)) (first : Bool) (tx : Fin 3) (s : State)
    (a : BitVec 28), (∀ f ∈ frames, 1 ≤ f.length ∧ f.length ≤ 4) →
    State.sendFrames frames first tx (s.withArg a) = (State.sendFrames frames first tx s).withArg a
  | [], _, _, _, _, _ => rfl
  | f :: rest, first, tx, s, a, h => by
    obtain ⟨⟨h1, h4⟩, hrest⟩ := List.forall_mem_cons.1 h
    rw [State.sendFrames, State.sendFrames, State.sendFrame_withArg s a first tx f h1 h4,
      State.sendFrames_withArg rest false (tx + 1) _ a hrest]

theorem renderFrames_lengths (p : Params) (b : BitVec 3) (pos : Fin 3) (pat : Byte) :
    ∀ f ∈ renderFrames p b pos pat, 1 ≤ f.length ∧ f.length ≤ 4 := by
  rw [renderFrames]
  split <;> simp

theorem State.show_withArg (first : Bool) (pos : Fin 3) (g : GlyphRef) :
    (s.withArg a).show first pos g = (s.show first pos g).withArg a :=
  State.sendFrames_withArg _ first 0 (s.setDisp pos g) a (renderFrames_lengths _ _ _ _)

/-- One of the three renders of `showAll`. -/
theorem State.setCurP_show_withArg (first : Bool) (pos : Fin 3) (g : GlyphRef) :
    ((s.withArg a).setCurP pos).show first pos g = ((s.setCurP pos).show first pos g).withArg a :=
  State.show_withArg (s.setCurP pos) a first pos g

theorem State.showAll_withArg (g0 g1 g2 : GlyphRef) :
    (s.withArg a).showAll g0 g1 g2 = (s.showAll g0 g1 g2).withArg a := by
  rw [State.showAll, State.showAll, State.setCurP_show_withArg, State.setCurP_show_withArg, State.setCurP_show_withArg]

theorem State.clearSeq_withArg : (s.withArg a).clearSeq = s.clearSeq.withArg a := State.showAll_withArg s a _ _ _

end WithArg

section SameButArg

variable {t u : State} {a : BitVec 28} (h : u = t.withArg a)

include h

/-- Two runs to states that differ in CUR_ARG alone. -/
theorem SameButArg.of_withArg : SameButArg (.next t) (.next u) :=
  ⟨t, a, rfl, congrArg Host.Outcome.next h⟩

/-- A response does not depend on CUR_ARG. -/
theorem SameButArg.respondAck (r : Resp) : SameButArg (.next (t.respondAck r)) (.next (u.respondAck r)) := by
  subst h
  exact .of_withArg (a := a) rfl

end SameButArg

/-- Settles O6: two requests with the same operands begin with different CUR_ARG only, and every part of a request keeps
that difference. -/
theorem ignoredBitsChangeNothing : Obligations.IgnoredBitsChangeNothing := by
  intro s
  refine ⟨fun g g' => ?_, fun g g' l => ?_, fun g g' => ?_, fun g g' a b => ?_, fun g g' a b => ?_,
    fun a a' => .of_withArg rfl, fun a a' => .of_withArg rfl, fun k a a' => .of_withArg rfl⟩
  · exact .respondAck (State.clearSeq_withArg ((s.latch 1 g).outputMode.setBright brightDefault).issue g') .nodev
  · rw [exec, exec, execSetbrt, execSetbrt]
    cases legalLevel l with
    | none => exact .of_withArg rfl
    | some b => exact .of_withArg rfl
  · exact .respondAck (State.clearSeq_withArg (s.latch 3 g).issue g') .nack
  · rw [exec, exec, execSetdig, execSetdig]
    cases legalPos a with
    | none => exact .of_withArg rfl
    | some p =>
      cases legalGlyph b with
      | none => exact .of_withArg rfl
      | some v =>
        exact .respondAck (State.show_withArg (s.latch 4 (g ++ a ++ b)).issue (g' ++ a ++ b) true p (.index v)) .nack
  · rw [exec, exec, execSetpat, execSetpat]
    cases legalPos a with
    | none => exact .of_withArg rfl
    | some p =>
      exact .respondAck (State.show_withArg (s.latch 5 (g ++ a ++ b)).issue (g' ++ a ++ b) true p (.raw b)) .nack

end Sys2Proof.Machine
end

section
/-! The SegmentEncoder (spec/40_segment_encoder.md): `encode` by the two kinds of glyph reference, the two table entries that
every configuration fixes, and the references of the source's glyphs. -/

namespace Sys2Proof.Machine

/-- K = 1: the pattern itself (R101). -/
@[simp] theorem segmentsOf_raw (p : Params) (v : Byte) : segmentsOf p (.raw v) = v := rfl

/-- K = 0: the table's entry (R101). -/
@[simp] theorem segmentsOf_index (p : Params) (i : Fin 23) : segmentsOf p (.index i) = p.segTable.get i := rfl

/-- Entry 7 is the one that the source gives a value (R102). -/
theorem segmentsOf_seven (c : Config) : segmentsOf c.val (.index 7) = 0x07 := by
  obtain ⟨p, _, _, _, _, hseven, _⟩ := c
  exact hseven

@[simp] theorem glyphRef_digit (p : Params) (d : Fin 10) : glyphRef p (.digit d) = .index ⟨d.val, by omega⟩ := rfl

@[simp] theorem glyphRef_blank (p : Params) : glyphRef p .blank = blankRef p := rfl

/-- Settles O8: `encode` by the kind of reference; the entries of Blank and of digit 7 are constraints on every
configuration (`segmentsOf_blank`, `segmentsOf_seven`), and the references are the rows of `glyphRef`. -/
theorem encoderPatterns : Obligations.EncoderPatterns := by
  intro c
  have hblank : segmentsOf c.val (glyphRef c.val .blank) = 0x00 := by
    rw [glyphRef_blank, segmentsOf_blank]
  have hseven : segmentsOf c.val (glyphRef c.val (.digit 7)) = 0x07 := by
    rw [glyphRef_digit]
    exact segmentsOf_seven c
  exact ⟨segmentsOf_raw c.val, segmentsOf_index c.val, hblank, hseven, glyphRef_digit c.val, rfl, rfl, rfl, fun _ => rfl⟩

end Sys2Proof.Machine
end

section
/-! The micro-ops one by one (spec/41_bit_channel.md R122, R123, R132): where the sequencer goes after each, which of them
samples, and how long each takes on the clock. -/

namespace Sys2Proof.Machine

section Perform

variable (s : State)

/-- B3 leads to the byte's next bit or to its acknowledgment (R127). -/
theorem State.perform_b3_chan : (s.perform .b3).chan =
    if s.chan.bitIdx.toNat < 7 then
      { s.chan with pos := some .b1, bitIdx := s.chan.bitIdx + 1, waitCnt := 2 * s.params.qCycles }
    else { s.chan with pos := some .a1, waitCnt := 2 * s.params.qCycles } := by
  have hchan : (s.act (actionOf s.curBit .b3)).chan = s.chan := rfl
  simp only [State.perform, State.moveOn, hchan]
  split <;> rfl

/-- A7 leads to the frame's next byte or to STOP (R135). -/
theorem State.perform_a7_chan : (s.perform .a7).chan =
    if s.chan.byteIdx.toNat < s.chan.frameLen.toNat - 1 then
      { s.chan with pos := some .b1, bitIdx := 0, byteIdx := s.chan.byteIdx + 1, waitCnt := 0 * s.params.qCycles }
    else { s.chan with pos := some .p1, waitCnt := 0 * s.params.qCycles } := by
  have hchan : (s.act (actionOf s.curBit .a7)).chan = s.chan := rfl
  simp only [State.perform, State.moveOn, hchan]
  split <;> rfl

end Perform

theorem bitIdx_succ_toNat {i : BitVec 3} (h : i.toNat < 7) : (i + 1).toNat = i.toNat + 1 :=
  BitVec.toNat_add_of_lt (by simp; omega)

theorem byteIdx_succ_toNat {j : BitVec 2} (h : j.toNat < 3) : (j + 1).toNat = j.toNat + 1 :=
  BitVec.toNat_add_of_lt (by simp; omega)

/-- Settles O14: one successor each, but for the two branches of B3 and of A7. -/
theorem microOpSuccessors : Obligations.MicroOpSuccessors := by
  intro s
  refine ⟨rfl, rfl, ⟨rfl, rfl, rfl⟩, rfl, rfl, ?_, ?_, rfl, rfl, rfl, rfl, rfl, rfl, ?_, ?_, rfl, rfl, rfl⟩
  · intro hbit
    rw [State.perform_b3_chan, if_pos hbit]
    exact ⟨rfl, bitIdx_succ_toNat hbit⟩
  · intro hbit
    rw [State.perform_b3_chan, if_neg (by simp [hbit])]
  · intro hmore hlast
    have hbyte : s.chan.byteIdx.toNat < 3 := by
      have := s.chan.byteIdx.isLt
      have : s.chan.byteIdx.toNat ≠ 3 := fun h => hlast (BitVec.eq_of_toNat_eq h)
      omega
    rw [State.perform_a7_chan, if_pos hmore]
    exact ⟨rfl, rfl, byteIdx_succ_toNat hbyte⟩
  · intro hlast
    rw [State.perform_a7_chan, if_neg hlast]

/-! Acknowledgment samples (R132). -/

/-- Where the sequencer goes next, its wait, its event and its cycle leave the samples and ACK_ACC as the action has left
them. -/
theorem State.perform_samples (s : State) (m : MicroOp) :
    (s.perform m).chan.ackAcc = (s.act (actionOf s.curBit m)).chan.ackAcc ∧
    (s.perform m).env.draws = (s.act (actionOf s.curBit m)).env.draws ∧
    (s.perform m).env.dioIn = (s.act (actionOf s.curBit m)).env.dioIn := by
  obtain ⟨_, _, _, h⟩ := State.moveOn_eq (s.act (actionOf s.curBit m)) m
  rw [State.perform, h]
  exact ⟨rfl, rfl, rfl⟩

/-- Only the sampling action draws a sample or writes ACK_ACC. -/
theorem State.act_samples (s : State) {a : Action} (h : a ≠ .sample) :
    (s.act a).chan.ackAcc = s.chan.ackAcc ∧ (s.act a).env = s.env := by
  cases a with
  | sample => exact absurd rfl h
  | clk | dio | dioIn | driveLow => exact ⟨rfl, rfl⟩

/-- A5 alone samples (R123). -/
theorem actionOf_ne_sample (bit : Bool) {m : MicroOp} (h : m ≠ .a5) : actionOf bit m ≠ .sample := by
  cases m with
  | a5 => exact absurd rfl h
  | s1 | s2 | s3 | b1 | b2 | b3 | a1 | a2 | a3 | a4 | a6 | a7 | p1 | p2 | p3 => exact nofun

/-- Settles O15: a micro-op samples if its action does, and A5's action alone does. -/
theorem onlyA5WritesAckAcc : Obligations.OnlyA5WritesAckAcc := by
  intro s
  refine ⟨?_, rfl, fun m hm => ?_, fun bytes => ⟨rfl, rfl⟩⟩
  · rw [← State.nextLevel_eq]
    rfl
  · obtain ⟨hack, hdraws, hdio⟩ := s.perform_samples m
    obtain ⟨hack', henv⟩ := s.act_samples (actionOf_ne_sample s.curBit hm)
    rw [hack, hdraws, hdio, hack', henv]
    exact ⟨rfl, rfl, rfl⟩

/-! The wait after a micro-op (R122). -/

theorem State.perform_pos_ne_none (s : State) {m : MicroOp} (h : m ≠ .p3) : (s.perform m).chan.pos ≠ none := by
  cases m with
  | p3 => exact absurd rfl h
  | b3 => rw [State.perform_b3_chan]; split <;> exact nofun
  | a7 => rw [State.perform_a7_chan]; split <;> exact nofun
  | s1 | s2 | s3 | b1 | b2 | a1 | a2 | a3 | a4 | a5 | a6 | p1 | p2 => exact nofun

theorem State.launch_shows_nothing (s : State) : s.launch.env = s.env ∧ s.launch.pins = s.pins := by
  rw [State.launch]
  split <;> exact ⟨rfl, rfl⟩

/-- What follows a transaction shows nothing on the ports in the cycle that ends it. -/
theorem State.endFrame_shows_nothing (s : State) : s.endFrame.env = s.env ∧ s.endFrame.pins = s.pins := by
  unfold State.endFrame
  dsimp only
  split
  · split
    · exact State.launch_shows_nothing _
    · split
      · exact State.launch_shows_nothing _
      · exact ⟨rfl, rfl⟩
  · exact ⟨rfl, rfl⟩

/-- The cycles of a wait show nothing on the ports, the cycle that ends a transaction among them. -/
theorem State.tick_wait_shows_nothing : ∀ (n : Nat) (s : State), s.env.rstIn = [] → s.ctl.busy = true →
    s.ctl.respValid = false → s.ctl.stage = .run → n ≤ s.chan.waitCnt →
    (State.tick^[n] s).env.trace = s.env.trace ∧ (State.tick^[n] s).pins = s.pins := by
  intro n
  induction n with
  | zero => intro s _ _ _ _ _; exact ⟨rfl, rfl⟩
  | succ n ih =>
    intro s hrst hbusy hvalid hstage hn
    rw [Function.iterate_succ_apply, State.tick_run s hrst hbusy hvalid hstage, State.runCycle, if_pos (by omega)]
    split
    · next hend =>
      obtain rfl : n = 0 := by omega
      obtain ⟨henv, hpins⟩ := s.countWait.endFrame_shows_nothing
      have htrace := congrArg Env.trace henv
      exact ⟨htrace, hpins⟩
    · exact ih s.countWait hrst hbusy hvalid hstage (Nat.le_sub_one_of_lt hn)

/-- Settles O16: the first cycle performs the micro-op, and the others count its wait down. -/
theorem microOpTakesItsWait : Obligations.MicroOpTakesItsWait := by
  intro s m hbusy hvalid hstage hwait hpos hrst
  have hfirst : s.tick = s.perform m := by
    rw [State.tick_run s hrst hbusy hvalid hstage, State.runCycle, if_neg (by omega), hpos]
  have hrst' : (s.perform m).env.rstIn = [] := by rw [State.perform_rstIn, hrst]
  have hbusy' : (s.perform m).ctl.busy = true := by rw [State.perform_ctl, hbusy]
  have hvalid' : (s.perform m).ctl.respValid = false := by rw [State.perform_ctl, hvalid]
  have hstage' : (s.perform m).ctl.stage = .run := by rw [State.perform_ctl, hstage]
  refine ⟨fun hm => ?_, fun j h1 hj => ?_⟩
  · rw [Nat.add_comm, Function.iterate_succ_apply, hfirst, ← State.perform_waitCnt,
      State.tick_wait _ _ hrst' hbusy' hvalid' hstage' (s.perform_pos_ne_none hm) (Nat.le_refl _), Nat.sub_self]
    rfl
  · obtain ⟨n, rfl⟩ := Nat.exists_eq_add_of_le' h1
    rw [Function.iterate_succ_apply, hfirst]
    exact State.tick_wait_shows_nothing n _ hrst' hbusy' hvalid' hstage' (by rw [State.perform_waitCnt]; omega)

end Sys2Proof.Machine
end

section
/-! A whole transaction as the surroundings see it (spec/41_bit_channel.md R137 to R142), read off the one equation
`State.send_eq`. -/

namespace Sys2Proof.Machine

/-- The events of a transaction. -/
theorem State.send_emits (s : State) (bytes : List Byte) (h1 : 1 ≤ bytes.length) (h4 : bytes.length ≤ 4) :
    Emits s (s.send bytes) (scriptEvents s.params.qCycles s.pins s.env.cycles (sendScript bytes)) := by
  rw [State.send_eq s bytes h1 h4]
  rfl

/-- Settles O17: the events are the script's, and the script is R137's. -/
theorem sendPerformsItsMicroOps : Obligations.SendPerformsItsMicroOps := by
  intro s bytes h1 h4
  have hops := (opTimes_ops s.params.qCycles (sendScript bytes) s.pins s.env.cycles).trans (sendScript_ops bytes)
  have hlen : (BitVec.ofNat 3 bytes.length).toNat = bytes.length := by rw [BitVec.toNat_ofNat]; omega
  refine ⟨⟨_, s.send_emits bytes h1 h4, hops, responses_scriptEvents _ _ _ _⟩, ?_⟩
  rw [State.send_eq s bytes h1 h4]
  exact ⟨loadedFrame_take s.chan.frame bytes h4, hlen, rfl, rfl⟩

theorem State.send_pins (s : State) (bytes : List Byte) (h1 : 1 ≤ bytes.length) (h4 : bytes.length ≤ 4) :
    (s.send bytes).pins = Pins.idle := by
  rw [State.send_eq s bytes h1 h4, State.after_pins, scriptPins_send _ _ (List.ne_nil_of_length_pos h1)]

/-- Settles O19: the last byte's acknowledgment and STOP bring any pins to the idle levels. -/
theorem sendEndsIdle : Obligations.SendEndsIdle := by
  intro s bytes h1 h4
  refine ⟨?_, s.send_pins bytes h1 h4⟩
  rw [State.send_eq s bytes h1 h4]
  exact State.phase_of_idle rfl

/-- A script takes one cycle for each micro-op and Q_CYCLES for each quarter unit of its waits. -/
theorem scriptCycles_eq (q : Nat) (l : List (MicroOp × Bool)) :
    scriptCycles q l = l.length + (l.map fun x => waitOf x.1).sum * q := by
  rw [scriptCycles, List.sum_map_add, List.sum_map_mul_right]
  simp

/-- The micro-ops and the quarter units of a transaction are the same at every Q_CYCLES, so its cycles with Q_CYCLES = 0
and 1 tell them. -/
theorem sendScript_counts (p : Params) (bytes : List Byte) : (sendScript bytes).length = 6 + 31 * bytes.length ∧
    ((sendScript bytes).map fun x => waitOf x.1).sum = 8 + 35 * bytes.length := by
  have h0 := scriptCycles_send { p with qCycles := 0 } bytes
  have h1 := scriptCycles_send { p with qCycles := 1 } bytes
  simp only [scriptCycles_eq, frameCycles] at h0 h1
  omega

/-- Settles O20: the events are the script's, one for each of its micro-ops. -/
theorem frameCounts : Obligations.FrameCounts := by
  intro s bytes h1 h4
  obtain ⟨hlen, hwaits⟩ := sendScript_counts s.params bytes
  have hops := opTimes_ops s.params.qCycles (sendScript bytes) s.pins s.env.cycles
  refine ⟨?_, _, s.send_emits bytes h1 h4, ?_, ?_⟩
  · rw [State.send_eq s bytes h1 h4]
    exact (scriptEnd_eq _ _ _).trans (congrArg _ (scriptCycles_send s.params bytes))
  · rw [← hlen, ← List.length_map (f := Prod.fst), hops, List.length_map]
  · have hsum := congrArg (fun ops => (ops.map waitOf).sum) hops
    simp only [List.map_map] at hsum
    exact hsum.trans hwaits

/-- Settles O21: the script of a transaction, and so its events and its pins, is the bytes' alone. -/
theorem samplesDoNotShapeTheFrame : Obligations.SamplesDoNotShapeTheFrame := by
  intro s bytes d n h1 h4
  rw [State.send_eq _ bytes h1 h4, State.send_eq _ bytes h1 h4]
  exact ⟨rfl, rfl⟩

/-! What a receiver reads (R142, R52). -/

/-- The number of the low n bits of x, least significant first. -/
theorem natOfLevels_testBit (n : Nat) : ∀ x : Nat, natOfLevels ((List.range n).map x.testBit) = x % 2 ^ n := by
  induction n with
  | zero => intro x; simp [natOfLevels, Nat.mod_one]
  | succ n ih =>
    intro x
    have htail : (List.range n).map (x.testBit ∘ Nat.succ) = (List.range n).map (x / 2).testBit := by
      simp only [Function.comp_def, Nat.succ_eq_add_one, Nat.testBit_add_one]
    rw [List.range_succ_eq_map, List.map_cons, List.map_map, htail, natOfLevels, ih, Nat.pow_succ', Nat.mod_mul,
      Nat.testBit_zero]
    rcases Nat.mod_two_eq_zero_or_one x with h | h <;> simp [h]

/-- Eight levels, LSB first, give the byte back. -/
theorem byteOfLevels_levelsOfByte (b : Byte) : byteOfLevels (levelsOfByte b) = b := by
  have h : natOfLevels (levelsOfByte b) = b.toNat % 2 ^ 8 := natOfLevels_testBit 8 b.toNat
  rw [byteOfLevels, h, Nat.mod_eq_of_lt b.isLt, BitVec.ofNat_toNat, BitVec.setWidth_eq]

/-- The rising edges of one script after another. -/
theorem risingLevels_append (q : Nat) (b : List (MicroOp × Bool)) : ∀ (a : List (MicroOp × Bool)) (p : Pins) (c : Nat),
    risingLevels p.clkOut (scriptEvents q p c (a ++ b)) = risingLevels p.clkOut (scriptEvents q p c a) ++
      risingLevels (scriptPins p a).clkOut (scriptEvents q (scriptPins p a) (scriptEnd q c a) b) := by
  intro a
  induction a with
  | nil => intro p c; rfl
  | cons x a ih =>
    intro p c
    simp only [scriptEvents, scriptPins, scriptEnd, opEvent, List.cons_append, risingLevels, ih]
    split <;> rfl

/-- CLK rises nine times for each byte. -/
theorem risingLevels_bytes (q : Nat) : ∀ (bytes : List Byte) (p : Pins) (c : Nat),
    risingLevels p.clkOut (scriptEvents q p c (bytes.flatMap byteScript)) =
      bytes.flatMap fun b => levelsOfByte b ++ [true] := by
  intro bytes
  induction bytes with
  | nil => intro p c; rfl
  | cons b bytes ih =>
    intro p c
    rw [List.flatMap_cons, risingLevels_append, risingLevels_byteScript, ih, List.flatMap_cons]

/-- The last acknowledgment leaves CLK low and DIO driven low. -/
theorem scriptPins_bytes (p : Pins) {bytes : List Byte} (h : bytes ≠ []) :
    scriptPins p (bytes.flatMap byteScript) = { clkOut := false, dioOut := false, dioOe := true } := by
  rw [← List.dropLast_append_getLast h, List.flatMap_append, scriptPins_append]
  exact (congrArg _ (List.append_nil _)).trans (scriptPins_byteScript _ _)

/-- Settles O22: START raises no edge, and STOP raises P2's with DIO low. -/
theorem risingEdgesCarryTheBytes : Obligations.RisingEdgesCarryTheBytes := by
  refine ⟨byteOfLevels_levelsOfByte, fun s bytes hidle h1 h4 => ⟨_, s.send_emits bytes h1 h4, ?_⟩⟩
  have hstart : risingLevels Pins.idle.clkOut
      (scriptEvents s.params.qCycles Pins.idle s.env.cycles [(.s1, false), (.s2, false), (.s3, false)]) = [] := rfl
  rw [hidle, sendScript]
  show risingLevels Pins.idle.clkOut _ = _
  rw [risingLevels_append, risingLevels_append, hstart, risingLevels_bytes, scriptPins_append,
    scriptPins_bytes _ (List.ne_nil_of_length_pos h1)]
  rfl

end Sys2Proof.Machine
end

section
/-! How a request begins on the clock and how a wire command is fetched (spec/42_display_controller.md R160 to R170,
spec/41_bit_channel.md R126, R146): dispatch and fetch, each inverted once, and what follows from that for the first micro-op
of a request and for a byte of the frame. -/

namespace Sys2Proof.Machine

/-! Dispatch. -/

/-- u is s with request registers written, and DIO perhaps turned to output. -/
structure State.Prepares (s u : State) : Prop where
  cfg : u.cfg = s.cfg
  chan : u.chan = s.chan
  env : u.env = s.env
  busy : u.ctl.busy = s.ctl.busy
  respValid : u.ctl.respValid = s.ctl.respValid
  pins : s.pins = Pins.idle → u.pins = Pins.idle

/-- An OP of 8 to 15 is answered INVALID (R79). -/
theorem State.dispatch_of_high {s : State} (h : 8 ≤ s.ctl.curOp.toNat) : s.dispatch = s.answer .invalid := by
  unfold State.dispatch
  split
  case h_7 => rfl
  all_goals omega

/-- SETBRT is answered at once, its level stored or refused (R166). -/
theorem State.dispatch_setbrt {s : State} (h : s.ctl.curOp.toNat = 2) :
    ∃ u r, s.Prepares u ∧ s.dispatch = u.answer r := by
  simp only [State.dispatch, h]
  split
  · next b _ => exact ⟨s.setBright b, .ok, ⟨rfl, rfl, rfl, rfl, rfl, id⟩, rfl⟩
  · exact ⟨s, .invalid, ⟨rfl, rfl, rfl, rfl, rfl, id⟩, rfl⟩

/-- A request without a transaction is answered in the cycle of its acceptance, and any other loads its first one. -/
theorem State.dispatch_cases (s : State) :
    (requestLens s.params (requestOf s.ctl.curOp s.ctl.curArg) = [] ∧ ∃ u r, s.Prepares u ∧ s.dispatch = u.answer r) ∨
    ∃ u pos g, s.Prepares u ∧ s.dispatch = u.beginBus pos g := by
  have hself : s.Prepares s := ⟨rfl, rfl, rfl, rfl, rfl, id⟩
  unfold requestOf
  split
  case h_1 h | h_8 h => exact .inl ⟨rfl, s, .invalid, hself, by simp only [State.dispatch, h]⟩
  case h_2 h =>
    exact .inr ⟨(s.outputMode.setBright brightDefault).setCurP 0, 0, blankRef s.params,
      ⟨rfl, rfl, rfl, rfl, rfl, fun hidle => congrArg (fun p : Pins => { p with dioOe := true }) hidle⟩,
      by simp only [State.dispatch, h]; rfl⟩
  case h_3 h => exact .inl ⟨rfl, State.dispatch_setbrt h⟩
  case h_4 h =>
    exact .inr ⟨s.setCurP 0, 0, blankRef s.params, ⟨rfl, rfl, rfl, rfl, rfl, id⟩, by simp only [State.dispatch, h]⟩
  case h_5 h =>
    simp only [State.dispatch, h, requestLens, argPos, argLow]
    cases legalPos (s.ctl.curArg.extractLsb' 8 8) with
    | none => exact .inl ⟨rfl, s, .invalid, hself, rfl⟩
    | some p =>
      cases legalGlyph (s.ctl.curArg.extractLsb' 0 8) with
      | none => exact .inl ⟨rfl, s, .invalid, hself, rfl⟩
      | some g => exact .inr ⟨s, p, .index g, hself, rfl⟩
  case h_6 h =>
    simp only [State.dispatch, h, requestLens, argPos]
    cases legalPos (s.ctl.curArg.extractLsb' 8 8) with
    | none => exact .inl ⟨rfl, s, .invalid, hself, rfl⟩
    | some p => exact .inr ⟨s, p, _, hself, rfl⟩
  case h_7 h =>
    exact .inr ⟨(s.setDigits (digitsOf s.ctl.curArg)).setCurP 0, 0, digitRef (digitsOf s.ctl.curArg)[0],
      ⟨rfl, rfl, rfl, rfl, rfl, id⟩, by simp only [State.dispatch, h]⟩
  case h_9 =>
    simp only [imp_false] at *
    exact .inl ⟨rfl, s, .invalid, hself, State.dispatch_of_high (by omega)⟩

/-! Fetch. -/

theorem decodeCommand_not_request {p : Params} {b : Byte} {i : Instr} (h : decodeCommand p b = some i) :
    i.isRequest = false := by
  unfold decodeCommand at h
  split_ifs at h
  all_goals
    obtain rfl := Option.some.inj h
    rfl

theorem decodeWire_not_request {p : Params} {place : WirePlace} {b : Byte} {i : Instr}
    (h : decodeWire p place b = .ok i) : i.isRequest = false := by
  unfold decodeWire at h
  split at h
  · obtain rfl := Except.ok.inj h
    rfl
  · split at h
    · next hi =>
      obtain rfl := Except.ok.inj h
      exact decodeCommand_not_request hi
    · cases h

/-- What begins a frame's byte: the BitChannel is sending, its wait is over, and the byte's first B1 is next. -/
theorem State.atByte_iff (s : State) : s.atByte = true ↔
    s.ctl.busy = true ∧ s.ctl.respValid = false ∧ s.ctl.stage = .run ∧ s.chan.waitCnt = 0 ∧
      s.chan.pos = some .b1 ∧ s.chan.bitIdx = 0 := by
  simp only [State.atByte, Bool.and_eq_true, Bool.not_eq_true', decide_eq_true_eq, and_assoc]

/-- A request is fetched by a ready block, and a wire command at a byte boundary. -/
theorem State.fetch_cases {s t : State} {i : Instr} (h : s.fetch = some (i, t)) :
    (s.ctl.busy = false ∧ i.isRequest = true ∧ t = s.popReq) ∨
    (s.atByte = true ∧ i.isRequest = false ∧ t = s) := by
  unfold State.fetch at h
  split at h
  · next hready =>
    split at h
    · cases h
      exact .inl ⟨hready, (everyWordIsOneRequest _).1, rfl⟩
    · cases h
  · split at h
    · next hbyte =>
      split at h
      · next hi =>
        cases h
        exact .inr ⟨hbyte, decodeWire_not_request hi, rfl⟩
      · cases h
    · cases h

/-- A wire command that has a meaning shifts out a byte. -/
theorem exec_wire_transmits {i : Instr} {s t : State} (hi : i.isRequest = false) (h : exec i s = .next t) :
    ∃ b, t = s.transmit b := by
  cases i with
  | addr p =>
    rw [exec, execAddr] at h
    split at h
    · exact ⟨_, (Host.Outcome.next.inj h).symm⟩
    · cases h
  | fixedAddr | data v | dispOn b | dispOff => exact ⟨_, (Host.Outcome.next.inj h).symm⟩
  | init | setbrt | clear | setdig | setpat | setint | illegalZero | illegalSeven | illegalHigh => cases hi

/-! The first micro-op of a request (R146). -/

/-- A ready block out of reset accepts the request on its port (R160). -/
theorem State.tick_accept {s : State} {w : ReqWord} {rest : List (Option ReqWord)} (hrst : s.env.rstIn = [])
    (hready : s.ctl.busy = false) (hreq : s.env.reqIn = some w :: rest) :
    s.tick = ((s.popReq.latch (w.extractLsb' 28 4) (w.extractLsb' 0 28)).dispatch).pass 1 := by
  rw [State.tick_live s hrst, State.liveCycle, if_pos hready, State.readyCycle, hreq]

/-- Settles O58: the request's first transaction is loaded in the cycle of its acceptance, the other cycles only count
ISSUE_LAT down, and then S1 is due. -/
theorem firstMicroOpComesAfterIssueLat : Obligations.FirstMicroOpComesAfterIssueLat := by
  intro s w rest hquiet hrst hreq hbus
  have haccept := State.tick_accept hrst hquiet.busy hreq
  rw [decodeRequest_eq] at hbus
  rcases (s.popReq.latch (w.extractLsb' 28 4) (w.extractLsb' 0 28)).dispatch_cases with
    ⟨hnone, -⟩ | ⟨u, pos, g, hu, hdispatch⟩
  · exact absurd hnone hbus
  have hparams : u.params = s.params := congrArg Subtype.val hu.cfg
  obtain ⟨n, hn⟩ : ∃ n, s.params.issueLat = n + 1 := ⟨_, (Nat.sub_add_cancel s.issueLat_pos).symm⟩
  have hlat : (u.awaitBus pos g).ctl.latCnt = n := by
    show u.params.issueLat - 1 = n
    rw [hparams]
    omega
  have hrst' : (u.awaitBus pos g).env.rstIn = [] := (congrArg Env.rstIn hu.env).trans hrst
  have hpos : (u.awaitBus pos g).chan.pos = none := (congrArg Channel.pos hu.chan).trans hquiet.pos
  have hwait : (u.awaitBus pos g).chan.waitCnt = 0 := (congrArg Channel.waitCnt hu.chan).trans hquiet.wait
  have htrace : (u.awaitBus pos g).env.trace = s.env.trace := (congrArg Env.trace hu.env).trans rfl
  have hcycles : (u.awaitBus pos g).env.cycles = s.env.cycles := (congrArg Env.cycles hu.env).trans rfl
  rw [hdispatch, State.beginBus_eq] at haccept
  have hbefore := State.tick_launched_before hrst' hu.busy hu.respValid rfl
  have hdue := State.tick_launched hrst' hu.busy hu.respValid rfl hwait
  rw [hlat, ← haccept, ← Function.iterate_succ_apply] at hdue
  refine ⟨fun j hj => ?_, ?_, ?_⟩
  · cases j with
    | zero => exact ⟨State.phase_of_idle hquiet.pos, rfl⟩
    | succ j =>
      rw [Function.iterate_succ_apply, haccept, hbefore j (by omega)]
      exact ⟨State.phase_of_idle hpos, htrace⟩
  · rw [hn, hdue]
  · rw [hn, Function.iterate_succ_apply', hdue, ← htrace, ← hcycles]
    exact State.tick_s1 hrst' hu.busy hu.respValid rfl rfl rfl (hu.pins hquiet.pins)

/-! A byte of the frame, run as an instruction (R126, R178). -/

/-- At a byte boundary the byte is fetched as the instruction it is in its place. -/
theorem State.fetch_at_byte {s : State} (h : s.atByte = true) :
    (∀ i, decodeWire s.params s.wirePlace s.curByte = .ok i → s.fetch = some (i, s)) ∧
    (∀ e, decodeWire s.params s.wirePlace s.curByte = .error e → s.fetch = none) := by
  obtain ⟨hbusy, -⟩ := s.atByte_iff.1 h
  rw [State.fetch, if_neg (by simp [hbusy]), if_pos h]
  exact ⟨fun i hi => by rw [hi], fun e he => by rw [he]⟩

/-- At grain `request`, a step runs what is fetched at a byte boundary, or is one cycle where nothing is. -/
theorem step_at_byte {s : State} (hgrain : s.env.grain = .request) (hrst : s.rstLevel = false) (h : s.atByte = true) :
    (∀ i, decodeWire s.params s.wirePlace s.curByte = .ok i → step s = exec i s.popRst) ∧
    (∀ e, decodeWire s.params s.wirePlace s.curByte = .error e → step s = .next s.tick) := by
  have hpop : s.popRst.atByte = true := h
  obtain ⟨hok, herr⟩ := State.fetch_at_byte hpop
  obtain ⟨-, -, hstage, -⟩ := s.atByte_iff.1 h
  have hboot : s.atBoot = false := by simp [State.atBoot, hstage]
  refine ⟨fun i hi => ?_, fun e he => ?_⟩
  · simp only [step, hgrain, hrst, hok i hi, Bool.false_eq_true, if_false]
  · simp only [step, hgrain, hrst, herr e he, hboot, Bool.false_eq_true, if_false]

/-- DATA's place (R163, R178). -/
theorem State.wirePlace_eq_afterAddr_iff (s : State) : s.wirePlace = .afterAddr ↔
    (s.params.framing = .single ∧ s.chan.byteIdx = 2) ∨
      (s.params.framing = .perCommand ∧ s.ctl.curTx = 1 ∧ s.chan.byteIdx = 1) := by
  rw [State.wirePlace]
  cases s.params.framing <;> simp

/-- The other places. -/
theorem State.wirePlace_eq_command_iff (s : State) : s.wirePlace = .command ↔
    (s.params.framing = .single ∧ s.chan.byteIdx ≠ 2) ∨
      (s.params.framing = .perCommand ∧ ¬ (s.ctl.curTx = 1 ∧ s.chan.byteIdx = 1)) := by
  rw [State.wirePlace]
  cases s.params.framing <;> simp

/-- Settles O42: a step runs the byte as it decodes in its place, and the two kinds of place are `wirePlace`'s. -/
theorem stepRunsTheFrameByte : Obligations.StepRunsTheFrameByte := by
  rintro s t b hgrain hrst hbusy hvalid hstage hwait hpos hbit rfl rfl
  obtain ⟨hok, herr⟩ := step_at_byte hgrain hrst (s.atByte_iff.2 ⟨hbusy, hvalid, hstage, hwait, hpos, hbit⟩)
  refine ⟨fun hdata => ?_, fun hcommand => ?_, hok⟩
  · rw [s.wirePlace_eq_afterAddr_iff.2 hdata] at hok
    exact hok _ rfl
  · rw [s.wirePlace_eq_command_iff.2 hcommand] at hok herr
    exact ⟨hok, herr⟩

end Sys2Proof.Machine
end

section
/-! The invariant of every step (spec/10_state.md R24 to R27, spec/41_bit_channel.md R122, R138,
spec/42_display_controller.md R161, spec/60_exceptions.md R214).  A state that meets it rests off the bus, awaits an S1, or is
sending; each kind has its own constructor, and each function of the sequencer leads from one kind to another. -/

namespace Sys2Proof.Machine

/-! What the pins hold and which byte is sent, at a position. -/

/-- The levels the pins hold at a position, the idle levels in IDLE (R138). -/
def pinsAt : Option MicroOp → Bool → Pins → Prop
  | none, _, p => p = Pins.idle
  | some m, bit, p => pinsBefore m bit p

/-- The byte being sent is one of the frame's. -/
def Channel.ByteInFrame (c : Channel) : Prop :=
  ∀ m, c.pos = some m → phaseOf m = .bit ∨ phaseOf m = .ack → c.byteIdx.toNat < c.frameLen.toNat

/-- FRAME_LEN is 1..4 (spec/10_state.md R25). -/
def Channel.LenOk (c : Channel) : Prop := 1 ≤ c.frameLen.toNat ∧ c.frameLen.toNat ≤ 4

/-- The wait that WAITCNT is never above. -/
def State.maxWait (s : State) : Nat := max 2 s.params.gapQ * s.params.qCycles

theorem Pins.eq_idle {p : Pins} (hclk : p.clkOut = true) (hdio : p.dioOut = true) (hoe : p.dioOe = true) :
    p = Pins.idle := by
  obtain ⟨c, d, o⟩ := p
  subst hclk hdio hoe
  rfl

/-- Before the frame's last byte there is a next one. -/
theorem Channel.LenOk.next_byte_lt {c : Channel} (h : c.LenOk) (hmore : c.byteIdx.toNat < c.frameLen.toNat - 1) :
    (c.byteIdx + 1).toNat < c.frameLen.toNat := by
  obtain ⟨-, h4⟩ := h
  rw [byteIdx_succ_toNat (by omega)]
  omega

/-- A micro-op leaves the pins as its successor finds them. -/
theorem State.perform_pinsAt {s : State} {m : MicroOp} (h : pinsBefore m s.curBit s.pins) :
    pinsAt (s.perform m).chan.pos (s.perform m).curBit (s.perform m).pins := by
  rw [State.perform_pins]
  cases m with
  | s1 | s2 => exact congrArg (pinsAfter · _) h
  | s3 => rw [show s.pins = Pins.idle from h]; rfl
  | b1 => exact ⟨rfl, h⟩
  | b2 => exact ⟨h.1, rfl, h.2⟩
  | b3 =>
    obtain ⟨-, -, hout⟩ := h
    rw [State.perform_b3_chan]
    split
    · exact hout
    · exact ⟨rfl, hout⟩
  | a1 => exact ⟨rfl, h.2⟩
  | a2 => exact ⟨h.1, rfl, h.2⟩
  | a3 => exact Pins.eq_idle rfl h.2.1 h.2.2
  | a4 => rw [show s.pins = Pins.idle from h]; exact ⟨rfl, rfl, rfl⟩
  | a5 => exact h
  | a6 => exact ⟨h.1, rfl, rfl⟩
  | a7 =>
    obtain ⟨-, hlow, hout⟩ := h
    rw [State.perform_a7_chan]
    split
    · exact hout
    · exact ⟨rfl, hlow, hout⟩
  | p1 => exact ⟨h.1, rfl, h.2.2⟩
  | p2 => exact ⟨rfl, h.2⟩
  | p3 => exact Pins.eq_idle h.1 rfl h.2.2

/-- A micro-op moves BYTEIDX within the frame alone. -/
theorem State.perform_byteInFrame {s : State} {m : MicroOp} (hpos : s.chan.pos = some m) (hlen : s.chan.LenOk)
    (h : s.chan.ByteInFrame) : (s.perform m).chan.ByteInFrame := by
  intro m' hm' hphase
  cases m with
  | s1 | s2 | p1 | p2 => cases hm'; simp [phaseOf] at hphase
  | p3 => cases hm'
  | s3 => exact hlen.1
  | b1 | b2 => exact h _ hpos (.inl rfl)
  | a1 | a2 | a3 | a4 | a5 | a6 => exact h _ hpos (.inr rfl)
  | b3 =>
    have hbyte := h _ hpos (.inl rfl)
    rw [State.perform_b3_chan]
    split
    · exact hbyte
    · exact hbyte
  | a7 =>
    rw [State.perform_a7_chan] at hm' ⊢
    split at hm'
    · next hmore =>
      rw [if_pos hmore]
      exact hlen.next_byte_lt hmore
    · cases hm'
      simp [phaseOf] at hphase

/-! The kinds of states that meet the invariant. -/

/-- No transaction is awaited or being sent, and the bus is idle. -/
structure State.Resting (s : State) : Prop where
  pos : s.chan.pos = none
  pins : s.pins = Pins.idle
  wait : s.chan.waitCnt = 0
  frameLen : s.chan.LenOk

/-- Resting is of the channel and the pins alone. -/
theorem State.Resting.congr {s t : State} (h : s.Resting) (hchan : t.chan = s.chan) (hpins : t.pins = s.pins) :
    t.Resting :=
  ⟨hchan ▸ h.pos, hpins ▸ h.pins, hchan ▸ h.wait, hchan ▸ h.frameLen⟩

theorem State.Resting.wait_le {s : State} (h : s.Resting) : s.chan.waitCnt ≤ s.maxWait := h.wait ▸ Nat.zero_le _

/-- A transaction is loaded, and its S1 is awaited or due. -/
structure State.Awaiting (s : State) : Prop where
  busy : s.ctl.busy = true
  respValid : s.ctl.respValid = false
  stage : s.ctl.stage = .issue
  pos : s.chan.pos = none
  pins : s.pins = Pins.idle
  frameLen : s.chan.LenOk
  wait : s.chan.waitCnt ≤ s.maxWait

/-- A transaction is being sent, or all that is left of it is the wait of its P3. -/
structure State.Sending (s : State) : Prop where
  busy : s.ctl.busy = true
  respValid : s.ctl.respValid = false
  stage : s.ctl.stage = .run
  latency : s.ctl.latCnt = 0
  pins : pinsAt s.chan.pos s.curBit s.pins
  frameLen : s.chan.LenOk
  byteInFrame : s.chan.ByteInFrame
  wait : s.chan.waitCnt ≤ s.maxWait

variable {s : State}

/-- The invariant speaks of no surroundings. -/
theorem State.Inv.withEnv (h : s.Inv) (e : Env) : State.Inv { s with env := e } where
  ready hb :=
    have q := h.ready hb
    ⟨q.busy, q.respValid, q.latency, q.pos, q.wait, q.pins⟩
  idle := h.idle
  levels := h.levels
  quietBus := h.quietBus
  noWait := h.noWait
  issuing := h.issuing
  sending := h.sending
  posting := h.posting
  frameLen := h.frameLen
  byteInFrame := h.byteInFrame
  waitBound := h.waitBound

theorem State.Sending.inv (h : s.Sending) : s.Inv where
  ready hb := by simp [h.busy] at hb
  idle hp := show pinsAt none s.curBit s.pins from hp ▸ h.pins
  levels m hp := show pinsAt (some m) s.curBit s.pins from hp ▸ h.pins
  quietBus hs := absurd h.stage hs
  noWait hs := by simp [h.stage] at hs
  issuing hs := by simp [h.stage] at hs
  sending _ := h.latency
  posting hv := by simp [h.respValid] at hv
  frameLen := h.frameLen
  byteInFrame := h.byteInFrame
  waitBound := h.wait

theorem State.Awaiting.inv (h : s.Awaiting) (hdue : ¬ (s.ctl.latCnt = 0 ∧ s.chan.waitCnt = 0)) : s.Inv where
  ready hb := by simp [h.busy] at hb
  idle _ := h.pins
  levels m hp := by simp [h.pos] at hp
  quietBus _ := h.pos
  noWait hs := by simp [h.stage] at hs
  issuing _ := by omega
  sending hs := by simp [h.stage] at hs
  posting hv := by simp [h.respValid] at hv
  frameLen := h.frameLen
  byteInFrame m hp := by simp [h.pos] at hp
  waitBound := h.wait

/-- The invariant of a resting block whose response is prepared, posted or past. -/
theorem State.Resting.inv_of_resp (h : s.Resting) (hstage : s.ctl.stage = .resp)
    (hready : s.ctl.busy = false → s.ctl.respValid = false ∧ s.ctl.latCnt = 0)
    (hpost : s.ctl.respValid = true → s.ctl.busy = true ∧ s.ctl.latCnt = 0) : s.Inv where
  ready hb := ⟨hb, (hready hb).1, (hready hb).2, h.pos, h.wait, h.pins⟩
  idle _ := h.pins
  levels m hp := by simp [h.pos] at hp
  quietBus _ := h.pos
  noWait _ := h.wait
  issuing hs := by simp [hstage] at hs
  sending hs := by simp [hstage] at hs
  posting hv := ⟨(hpost hv).1, hstage, (hpost hv).2⟩
  frameLen := h.frameLen
  byteInFrame m hp := by simp [h.pos] at hp
  waitBound := h.wait_le

/-! Each kind from the invariant. -/

theorem State.Inv.pinsAt (h : s.Inv) : pinsAt s.chan.pos s.curBit s.pins := by
  cases hp : s.chan.pos with
  | none => exact h.idle hp
  | some m => exact h.levels m hp

theorem State.Quiet.resting (h : s.Quiet) (hlen : s.chan.LenOk) : s.Resting :=
  ⟨h.pos, h.pins, h.wait, hlen⟩

theorem State.Inv.resting (h : s.Inv) (hstage : s.ctl.stage = .boot ∨ s.ctl.stage = .resp) : s.Resting :=
  have hpos : s.chan.pos = none := h.quietBus (by rcases hstage with hs | hs <;> simp [hs])
  ⟨hpos, h.idle hpos, h.noWait hstage, h.frameLen⟩

section Busy

variable (h : s.Inv) (hbusy : s.ctl.busy = true) (hvalid : s.ctl.respValid = false)

include h hbusy hvalid

theorem State.Inv.awaiting (hstage : s.ctl.stage = .issue) : s.Awaiting :=
  have hpos : s.chan.pos = none := h.quietBus (by simp [hstage])
  ⟨hbusy, hvalid, hstage, hpos, h.idle hpos, h.frameLen, h.waitBound⟩

theorem State.Inv.isSending (hstage : s.ctl.stage = .run) : s.Sending :=
  ⟨hbusy, hvalid, hstage, h.sending hstage, h.pinsAt, h.frameLen, h.byteInFrame, h.waitBound⟩

end Busy

/-! What the functions of the sequencer make of each kind. -/

/-- S1 is launched, or still awaited (R146). -/
theorem State.Awaiting.launch_inv (h : s.Awaiting) : s.launch.Inv := by
  unfold State.launch
  split
  · next hdue =>
    exact State.Sending.inv ⟨h.busy, h.respValid, rfl, hdue.1, h.pins, h.frameLen,
      fun m hm hphase => by cases hm; simp [phaseOf] at hphase, h.wait⟩
  · next hdue => exact h.inv hdue

theorem State.loadFrame_frameLen (s : State) {bytes : List Byte} (h4 : bytes.length ≤ 4) :
    (s.loadFrame bytes).chan.frameLen.toNat = bytes.length := by
  show (BitVec.ofNat 3 bytes.length).toNat = bytes.length
  rw [BitVec.toNat_ofNat]
  omega

theorem renderFrames_length (p : Params) (b : BitVec 3) (pos : Fin 3) (pat : Byte) :
    (renderFrames p b pos pat).length = frameCount p := by
  rw [renderFrames, frameCount]
  split <;> rfl

theorem frameCount_pos (p : Params) : 0 < frameCount p := by
  rw [frameCount]
  split <;> decide

theorem frameCount_le_three (p : Params) : frameCount p ≤ 3 := by
  rw [frameCount]
  split <;> decide

/-- The next transaction of a render, where there is one. -/
theorem next_tx_lt {p : Params} {tx : Fin 3} (h : tx.val + 1 < frameCount p) : (tx + 1).val < frameCount p := by
  rwa [Fin.val_add_one_of_lt' (h.trans_le (frameCount_le_three p))]

/-- Every transaction of a render has 1 to 4 bytes (R163). -/
theorem renderFrames_getD_length (p : Params) (b : BitVec 3) (pos : Fin 3) (pat : Byte) {tx : Nat}
    (h : tx < frameCount p) :
    1 ≤ ((renderFrames p b pos pat).getD tx []).length ∧ ((renderFrames p b pos pat).getD tx []).length ≤ 4 := by
  rw [← renderFrames_length p b pos pat] at h
  rw [List.getD_eq_getElem _ _ h]
  exact renderFrames_lengths p b pos pat _ (List.getElem_mem h)

section Load

variable (h : s.Resting) (hbusy : s.ctl.busy = true) (hvalid : s.ctl.respValid = false)

include h hbusy hvalid

/-- A transaction of a render is loaded (R137). -/
theorem State.Resting.beginTx (pos tx : Fin 3) (htx : tx.val < frameCount s.params) : (s.beginTx pos tx).Awaiting :=
  have hbytes := renderFrames_getD_length s.params s.ctl.bright pos (segmentsOf s.params (s.ctl.disp.get pos)) htx
  ⟨hbusy, hvalid, rfl, h.pos, h.pins, by rwa [Channel.LenOk, State.beginTx, State.loadFrame_frameLen _ hbytes.2],
    h.wait_le⟩

/-- A render begins with its first transaction (R172). -/
theorem State.Resting.beginRender (pos : Fin 3) (g : GlyphRef) : (s.beginRender pos g).Awaiting :=
  have hrest : (s.setDisp pos g).Resting := h.congr rfl rfl
  hrest.beginTx hbusy hvalid pos 0 (frameCount_pos s.params)

/-- The first transaction of a request is loaded. -/
theorem State.Resting.awaitBus (pos : Fin 3) (g : GlyphRef) : (s.awaitBus pos g).Awaiting :=
  have hrest : State.Resting { s.startOpAck with
      ctl := { s.startOpAck.ctl with latCnt := s.params.issueLat - 1 } } := h.congr rfl rfl
  hrest.beginRender hbusy hvalid pos g

end Load

theorem State.Awaiting.loadGap (h : s.Awaiting) : (s.loadWait s.params.gapQ).Awaiting :=
  ⟨h.busy, h.respValid, h.stage, h.pos, h.pins, h.frameLen, Nat.mul_le_mul_right _ (Nat.le_max_right _ _)⟩

/-- A response is decided, and posted now or later (R161). -/
theorem State.Resting.schedule_inv (h : s.Resting) (hbusy : s.ctl.busy = true) (r : Resp) (n : Nat) :
    (s.schedule r n).Inv :=
  State.Resting.inv_of_resp (h.congr rfl rfl) rfl (fun hready => by cases hbusy.symm.trans hready)
    (fun hposted => ⟨hbusy, by show n - 1 = 0; rw [of_decide_eq_true hposted]⟩)

/-- The response of a whole request leaves the block quiet. -/
theorem State.Resting.respond_inv (h : s.Resting) (r : Resp) : (s.respond r).Inv :=
  State.Resting.inv_of_resp (h.congr rfl rfl) rfl (fun _ => ⟨rfl, rfl⟩) nofun

theorem State.Resting.prepares {s u : State} (h : s.Resting) (hu : s.Prepares u) : u.Resting :=
  ⟨hu.chan ▸ h.pos, hu.pins h.pins, hu.chan ▸ h.wait, hu.chan ▸ h.frameLen⟩

/-- A request accepted by a resting block is answered or begins on the bus. -/
theorem State.Resting.dispatch_inv (h : s.Resting) (hbusy : s.ctl.busy = true) (hvalid : s.ctl.respValid = false) :
    s.dispatch.Inv := by
  rcases s.dispatch_cases with ⟨-, u, r, hu, hd⟩ | ⟨u, pos, g, hu, hd⟩
  · rw [hd]
    exact (h.prepares hu).schedule_inv (hu.busy.trans hbusy) r _
  · rw [hd, State.beginBus_eq]
    exact ((h.prepares hu).awaitBus (hu.busy.trans hbusy) (hu.respValid.trans hvalid) pos g).launch_inv

/-- The construction after reset begins (spec/70_reset_and_hazards.md R231). -/
theorem State.Resting.startInit_inv (h : s.Resting) (hbusy : s.ctl.busy = true) (hvalid : s.ctl.respValid = false) :
    s.startInit.Inv := by
  have hpins : s.outputMode.pins = Pins.idle := by rw [State.outputMode_pins, h.pins]; rfl
  have hrest : ((s.outputMode.setBright brightDefault).setCurP 0).Resting := ⟨h.pos, hpins, h.wait, h.frameLen⟩
  exact (hrest.awaitBus hbusy hvalid 0 (blankRef s.params)).launch_inv

/-- After a transaction the next one is awaited, or the response is scheduled (spec/10_state.md R33). -/
theorem State.Resting.endFrame_inv (h : s.Resting) (hbusy : s.ctl.busy = true) (hvalid : s.ctl.respValid = false) :
    s.endFrame.Inv := by
  have hrest : s.foldOpAck.Resting := h.congr rfl rfl
  unfold State.endFrame
  dsimp only
  split
  · split
    · next hmore =>
      exact (hrest.beginTx hbusy hvalid _ _ (next_tx_lt hmore)).loadGap.launch_inv
    · split
      · have hnext : (s.foldOpAck.setCurP (s.foldOpAck.ctl.curP + 1)).Resting := h.congr rfl rfl
        exact (hnext.beginRender hbusy hvalid _ _).loadGap.launch_inv
      · exact hrest.schedule_inv hbusy _ _
  · exact hrest.schedule_inv hbusy _ _

/-! A cycle keeps the invariant. -/

theorem waitOf_le_two (m : MicroOp) : waitOf m ≤ 2 := by cases m <;> decide

/-- A micro-op is performed. -/
theorem State.Sending.perform (h : s.Sending) {m : MicroOp} (hpos : s.chan.pos = some m) : (s.perform m).Sending where
  busy := by rw [State.perform_ctl, h.busy]
  respValid := by rw [State.perform_ctl, h.respValid]
  stage := by rw [State.perform_ctl, h.stage]
  latency := by rw [State.perform_ctl, h.latency]
  pins := State.perform_pinsAt (show Machine.pinsAt (some m) s.curBit s.pins from hpos ▸ h.pins)
  frameLen := by rw [Channel.LenOk, State.perform_frameLen]; exact h.frameLen
  byteInFrame := State.perform_byteInFrame hpos h.frameLen h.byteInFrame
  wait := by
    have hmax : (s.perform m).maxWait = s.maxWait := by rw [State.maxWait, State.params, State.perform_cfg]; rfl
    rw [State.perform_waitCnt, hmax]
    exact Nat.mul_le_mul_right _ ((waitOf_le_two m).trans (Nat.le_max_left _ _))

/-- A cycle of a wait. -/
theorem State.Sending.countWait (h : s.Sending) : s.countWait.Sending :=
  ⟨h.busy, h.respValid, h.stage, h.latency, h.pins, h.frameLen, h.byteInFrame, (Nat.sub_le _ _).trans h.wait⟩

theorem State.Sending.runCycle_inv (h : s.Sending) : s.runCycle.Inv := by
  unfold State.runCycle
  split
  · split
    · next hend =>
      obtain ⟨hone, hidle⟩ := hend
      have hpins : s.pins = Pins.idle := show Machine.pinsAt none s.curBit s.pins from hidle ▸ h.pins
      have hrest : s.countWait.Resting := ⟨hidle, hpins, by show s.chan.waitCnt - 1 = 0; omega, h.frameLen⟩
      exact hrest.endFrame_inv h.busy h.respValid
    · exact h.countWait.inv
  · next hwait =>
    split
    · next m hm => exact (h.perform hm).inv
    · next hidle =>
      have hpins : s.pins = Pins.idle := show Machine.pinsAt none s.curBit s.pins from hidle ▸ h.pins
      have hrest : s.Resting := ⟨hidle, hpins, by omega, h.frameLen⟩
      exact (hrest.endFrame_inv h.busy h.respValid).withEnv _

theorem State.Awaiting.issueCycle_inv (h : s.Awaiting) : s.issueCycle.Inv := by
  unfold State.issueCycle
  split
  · exact State.Awaiting.launch_inv ⟨h.busy, h.respValid, h.stage, h.pos, h.pins, h.frameLen, h.wait⟩
  · exact State.Awaiting.launch_inv
      ⟨h.busy, h.respValid, h.stage, h.pos, h.pins, h.frameLen, (Nat.sub_le _ _).trans h.wait⟩

theorem State.Resting.respCycle_inv (h : s.Resting) (hbusy : s.ctl.busy = true) (hvalid : s.ctl.respValid = false)
    (hstage : s.ctl.stage = .resp) : s.respCycle.Inv := by
  unfold State.respCycle
  split
  · exact State.Resting.inv_of_resp (h.congr rfl rfl) hstage
      (fun hready => by cases hbusy.symm.trans hready) (fun hposted => by cases hvalid.symm.trans hposted)
  · next hlat =>
    exact State.Resting.inv_of_resp (h.congr rfl rfl) hstage
      (fun hready => by cases hbusy.symm.trans hready) (fun _ => ⟨hbusy, by show s.ctl.latCnt = 0; omega⟩)

/-- A posted response is over (R161). -/
theorem State.Inv.closeResponse (h : s.Inv) (hposted : s.ctl.respValid = true) : s.closeResponse.Inv := by
  obtain ⟨-, hstage, hlat⟩ := h.posting hposted
  have hrest := h.resting (.inr hstage)
  exact State.Resting.inv_of_resp (hrest.congr rfl rfl) hstage (fun _ => ⟨rfl, hlat⟩) nofun

theorem State.Inv.readyCycle (h : s.Inv) (hready : s.ctl.busy = false) : s.readyCycle.Inv := by
  have q := h.ready hready
  unfold State.readyCycle
  split
  · next w rest _ =>
    have hrest : (s.popReq.latch (w.extractLsb' 28 4) (w.extractLsb' 0 28)).Resting :=
      (q.resting h.frameLen).congr rfl rfl
    exact (hrest.dispatch_inv rfl rfl).withEnv _
  · have hkeep : { s with ctl := { s.ctl with respValid := false } } = s := by rw [← q.respValid]
    rw [hkeep]
    exact h.withEnv _

theorem State.Inv.tick (h : s.Inv) : s.tick.Inv := by
  have hpop : s.popRst.Inv := h.withEnv _
  rcases s.tick_cases with ⟨-, ht⟩ | ⟨-, hready, ht⟩ | ⟨-, -, hposted, ht⟩ | ⟨-, hbusy, hvalid, hlive⟩
  · rw [ht]
    exact State.resetFor_inv s.cfg s.resetCycle.env
  · rw [ht]
    exact hpop.readyCycle hready
  · rw [ht]
    exact hpop.closeResponse hposted
  · rcases hlive with ⟨hstage, ht⟩ | ⟨hstage, ht⟩ | ⟨hstage, ht⟩ | ⟨hstage, ht⟩
    · rw [ht]
      exact ((hpop.resting (.inl hstage)).startInit_inv hbusy hvalid).withEnv _
    · rw [ht]
      exact (hpop.awaiting hbusy hvalid hstage).issueCycle_inv
    · rw [ht]
      exact (hpop.isSending hbusy hvalid hstage).runCycle_inv
    · rw [ht]
      exact (hpop.resting (.inr hstage)).respCycle_inv hbusy hvalid hstage

/-! So does what one step runs at grain `request`. -/

theorem Sends.resting {s t : State} {first : Bool} {frames : List (List Byte)} {c : Control}
    (h : Sends s t first frames c) : t.Resting :=
  ⟨h.pos, h.pins, h.wait, h.frameLen⟩

/-- A request run on a resting block ends in the response of a resting block. -/
theorem State.Resting.exec_request (h : s.Resting) {i : Instr} (hi : i.isRequest = true) :
    ∃ (u : State) (r : Resp), exec i s = .next (u.respond r) ∧ u.Resting := by
  have hregs (c : Control) : State.Resting { s with ctl := c } := h.congr rfl rfl
  cases i with
  | init ign => exact ⟨_, _, rfl, (State.showAll_sends _ _ _ _).resting⟩
  | setbrt ign level =>
    rw [exec, execSetbrt]
    split
    · exact ⟨_, _, rfl, hregs _⟩
    · exact ⟨_, _, rfl, hregs _⟩
  | clear ign => exact ⟨_, _, rfl, (State.showAll_sends _ _ _ _).resting⟩
  | setdig ign pos glyph =>
    rw [exec, execSetdig]
    split
    · exact ⟨_, _, rfl, (State.show_sends _ _ _ _).resting⟩
    · exact ⟨_, _, rfl, hregs _⟩
  | setpat ign pos pat =>
    rw [exec, execSetpat]
    split
    · exact ⟨_, _, rfl, (State.show_sends _ _ _ _).resting⟩
    · exact ⟨_, _, rfl, hregs _⟩
  | setint value => exact ⟨_, _, rfl, (State.showAll_sends _ _ _ _).resting⟩
  | illegalZero arg => exact ⟨_, _, rfl, hregs _⟩
  | illegalSeven arg => exact ⟨_, _, rfl, hregs _⟩
  | illegalHigh sub arg => exact ⟨_, _, rfl, hregs _⟩
  | fixedAddr | addr p | data v | dispOn b | dispOff => cases hi

/-- The construction, run in one step. -/
theorem State.construct_inv (s : State) : s.construct.Inv :=
  (State.showAll_sends (s.outputMode.setBright brightDefault).issue _ _ _).resting.respond_inv _

/-- A frame's byte, run in one step: the next byte's B1 follows, or P1 (R135). -/
theorem State.Sending.transmit (h : s.Sending) (b : Byte) : (s.transmit b).Sending := by
  have hnext := Channel.afterByte_of_more (c := (s.placeByte b).chan) s.env.dioIn s.env.draws
  have hstop := Channel.afterByte_of_last (c := (s.placeByte b).chan) s.env.dioIn s.env.draws
  have hframeLen := Channel.afterByte_frameLen (s.placeByte b).chan s.env.dioIn s.env.draws
  have hwait := Channel.afterByte_waitCnt (s.placeByte b).chan s.env.dioIn s.env.draws
  rw [State.transmit_eq]
  refine ⟨h.busy, h.respValid, h.stage, h.latency, ?_, ?_, ?_, hwait ▸ Nat.zero_le _⟩
  · rw [State.after_chan, State.after_pins, scriptPins_byteScript]
    by_cases hmore : s.chan.byteIdx.toNat < s.chan.frameLen.toNat - 1
    · rw [(hnext hmore).1]
      exact rfl
    · rw [(hstop hmore).1]
      exact ⟨rfl, rfl, rfl⟩
  · rw [State.after_chan, Channel.LenOk, hframeLen]
    exact h.frameLen
  · intro m hm hphase
    rw [State.after_chan] at hm ⊢
    by_cases hmore : s.chan.byteIdx.toNat < s.chan.frameLen.toNat - 1
    · rw [(hnext hmore).2.2, hframeLen]
      exact h.frameLen.next_byte_lt hmore
    · cases (hstop hmore).1.symm.trans hm
      simp [phaseOf] at hphase

/-- Settles O53: a step is a cycle, a request run by a resting block, a byte of the frame being sent, or the construction. -/
theorem stepKeepsTheInvariant : Obligations.StepKeepsTheInvariant := by
  intro s t h hst
  have hpop : s.popRst.Inv := h.withEnv _
  rcases step_cases s with hs | ⟨-, -, i, u, hf, hs⟩ | ⟨-, -, -, -, hs⟩
  · obtain rfl := Host.Outcome.next.inj (hs.symm.trans hst)
    exact h.tick
  · have hi := hs.symm.trans hst
    rcases State.fetch_cases hf with ⟨hready, hreq, rfl⟩ | ⟨hbyte, hwire, rfl⟩
    · have hrest : s.popRst.popReq.Resting := ((h.ready hready).resting h.frameLen).congr rfl rfl
      obtain ⟨v, r, hv, hvrest⟩ := hrest.exec_request hreq
      obtain rfl := Host.Outcome.next.inj (hv.symm.trans hi)
      exact hvrest.respond_inv r
    · obtain ⟨hbusy, hvalid, hstage, -⟩ := s.popRst.atByte_iff.1 hbyte
      obtain ⟨b, rfl⟩ := exec_wire_transmits hwire hi
      exact ((hpop.isSending hbusy hvalid hstage).transmit b).inv
  · obtain rfl := Host.Outcome.next.inj (hs.symm.trans hst)
    exact s.popRst.construct_inv

end Sys2Proof.Machine
end

section
/-! Operands: what is legal (spec/30_encoding.md R73 to R76, spec/60_exceptions.md R202), SETINT's digits
(spec/42_display_controller.md R171), and the two computed bytes (R164). -/

namespace Sys2Proof.Machine

/-! The ranges of POS, GLYPH and LEVEL. -/

theorem legalPos_of_le {b : Byte} (h : b.toNat ≤ 2) : legalPos b = some ⟨b.toNat, Nat.lt_succ_of_le h⟩ :=
  dif_pos (Nat.lt_succ_of_le h)

theorem legalPos_of_gt {b : Byte} (h : 2 < b.toNat) : legalPos b = none := dif_neg (Nat.not_lt.2 h)

theorem legalGlyph_of_le {b : Byte} (h : b.toNat ≤ 22) : legalGlyph b = some ⟨b.toNat, Nat.lt_succ_of_le h⟩ :=
  dif_pos (Nat.lt_succ_of_le h)

theorem legalGlyph_of_gt {b : Byte} (h : 22 < b.toNat) : legalGlyph b = none := dif_neg (Nat.not_lt.2 h)

theorem legalLevel_of_le {b : Byte} (h : b.toNat ≤ 7) : legalLevel b = some (BitVec.ofNat 3 b.toNat) := by
  rw [legalLevel, if_pos h, BitVec.ofNat_toNat, ← BitVec.setWidth_eq_extractLsb' (by decide)]

theorem legalLevel_of_gt {b : Byte} (h : 7 < b.toNat) : legalLevel b = none := if_neg (Nat.not_le.2 h)

/-! SETINT's digits. -/

theorem clampValue_eq (v : BitVec 28) : clampValue v = (min (max v.toInt 0) 999).toNat := rfl

theorem clampValue_le (v : BitVec 28) : clampValue v ≤ 999 := by
  rw [clampValue_eq]
  omega

/-- A digit fits its four bits. -/
theorem ofNat_digit_toNat (n : Nat) : (BitVec.ofNat 4 (n % 10)).toNat = n % 10 := by
  rw [BitVec.toNat_ofNat]
  omega

/-- Settles O12: the clamp is at most 999, so its digits are the three decimal ones. -/
theorem setintArithmetic : Obligations.SetintArithmetic := by
  intro v
  have hle := clampValue_le v
  have hhundreds : (digitsOf v)[0].toNat = clampValue v / 100 % 10 := ofNat_digit_toNat _
  have htens : (digitsOf v)[1].toNat = clampValue v / 10 % 10 := ofNat_digit_toNat _
  have hunits : (digitsOf v)[2].toNat = clampValue v % 10 := ofNat_digit_toNat _
  refine ⟨?_, ?_, ?_, hhundreds, htens, hunits, ?_⟩
  · intro h
    rw [clampValue_eq]
    omega
  · intro h
    rw [clampValue_eq]
    omega
  · intro h0 h999
    rw [clampValue_eq]
    omega
  · rw [hhundreds, htens, hunits]
    omega

/-! The computed bytes. -/

/-- An operand below 2^n, added to a base whose low n bits are 0, stands in those bits: no carry. -/
theorem add_eq_or_of_low_zero {base e : Byte} {n : Nat} (hbase : base.extractLsb' 0 n = 0) (he : e.toNat < 2 ^ n) :
    base + e = base ||| e := by
  apply BitVec.add_eq_or_of_and_eq_zero
  apply BitVec.eq_of_getLsbD_eq
  intro i _
  rw [BitVec.getLsbD_and, BitVec.getLsbD_zero]
  by_cases hi : i < n
  · have hlow : (base.extractLsb' 0 n).getLsbD i = base.getLsbD i := by simp [hi]
    rw [← hlow, hbase]
    simp
  · have hhigh : e.getLsbD i = false :=
      Nat.testBit_lt_two_pow (he.trans_le (Nat.pow_le_pow_right Nat.two_pos (Nat.not_lt.1 hi)))
    rw [hhigh, Bool.and_false]

/-- Settles O11: R9 keeps the low bits of both bases at 0. -/
theorem computedBytesNeverCarry : Obligations.ComputedBytesNeverCarry := by
  rintro ⟨p, hdisp, haddr, -⟩ pos b
  have hpos : (BitVec.ofNat 8 pos.val).toNat < 2 ^ 2 := by
    rw [BitVec.toNat_ofNat]
    omega
  have hb : (b.setWidth 8).toNat < 2 ^ 3 := (setWidth_eight_toNat (by decide) b).trans_lt b.isLt
  exact ⟨add_eq_or_of_low_zero haddr hpos, add_eq_or_of_low_zero hdisp hb⟩

end Sys2Proof.Machine
end

section
/-! What a render puts on the bus (spec/42_display_controller.md R163, R176 to R179). -/

namespace Sys2Proof.Machine

/-- A render's bytes, whatever the framing (R163). -/
theorem renderFrames_flatten (p : Params) (b : BitVec 3) (pos : Fin 3) (pat : Byte) :
    (renderFrames p b pos pat).flatten = [p.cmdFixedAddr, addrByte p pos, pat, dispOnByte p b] := by
  rw [renderFrames]
  split <;> rfl

/-- The lengths of a render's transactions. -/
theorem renderFrames_map_length (p : Params) (b : BitVec 3) (pos : Fin 3) (pat : Byte) :
    (renderFrames p b pos pat).map List.length = renderLens p := by
  rw [renderFrames, renderLens]
  cases p.framing <;> rfl

/-- The operand of ADDR, as a position. -/
theorem setWidth_ofNat_pos : ∀ pos : Fin 3, (BitVec.ofNat 2 pos.val).setWidth 8 = BitVec.ofNat 8 pos.val := by
  decide

/-- Where the command values do not overlap, ADDR's byte is read as the address of its position. -/
theorem decodeCommand_addrByte {p : Params} (h : p.commandsDistinct = true) (pos : Fin 3) :
    decodeCommand p (addrByte p pos) = some (.addr (BitVec.ofNat 2 pos.val)) := by
  have hpos : (BitVec.ofNat 2 pos.val).toNat < 3 := by
    rw [BitVec.toNat_ofNat]
    omega
  rw [addrByte, ← setWidth_ofNat_pos]
  exact decodeCommand_addr h hpos

/-- Settles O25: the bytes and their cutting by the framing, and each byte read in its place. -/
theorem renderBytesInOrder : Obligations.RenderBytesInOrder := by
  intro p b pos pat
  refine ⟨renderFrames_flatten p b pos pat, fun hf => ?_, fun hf => ?_, fun hdistinct => ⟨?_, ?_, rfl, ?_⟩⟩
  · rw [renderFrames_map_length, renderLens, hf]
  · rw [renderFrames_map_length, renderLens, hf]
  · exact decodeWire_command (decodeCommand_fixedAddr p)
  · exact decodeWire_command (decodeCommand_addrByte hdistinct pos)
  · exact decodeWire_command (decodeCommand_dispOn hdistinct b)

end Sys2Proof.Machine
end

section
/-! The whole effect of each request (spec/42_display_controller.md R165 to R170).  A request that renders is `Sends` between
its latency and its response; any other is only answered. -/

namespace Sys2Proof.Machine

/-! From transactions to `Rendered`. -/

/-- The transactions of a request are read as the bytes that were sent (R142). -/
theorem framesOf_framesEvents_eq (q g : Nat) (frames : List (List Byte)) (first : Bool) (p : Pins) (c : Nat) :
    framesOf (framesEvents q g first p c frames) = frames := by
  rw [framesOf_framesEvents]
  simp only [byteOfLevels_levelsOfByte, List.map_id']

/-- A request's registers once it is answered r. -/
def Control.responded (c : Control) (r : Resp) : Control :=
  { c with lastResp := r, respCode := r, busy := false, respValid := false }

/-- Transactions sent ISSUE_LAT cycles after acceptance, and then the response, are a rendered request: u is s accepted and
issued. -/
theorem Sends.rendered {s u v : State} {frames : List (List Byte)} {c : Control} (h : Sends u v true frames c)
    (hcfg : u.cfg = s.cfg) (henv : u.env = s.issue.env) (hframes : frames ≠ []) (failure : Resp) :
    Rendered s (v.respondAck failure) (c.responded (resultCode failure c.opAck)) frames := by
  have hparams : u.params = s.params := congrArg Subtype.val hcfg
  have hparams' : v.params = s.params := congrArg Subtype.val (h.cfg.trans hcfg)
  have hresp : v.respondAck failure = v.respond (resultCode failure c.opAck) := by rw [State.respondAck, h.ctl]
  have hctl : (v.respond (resultCode failure c.opAck)).ctl =
      { c.responded (resultCode failure c.opAck) with stage := .resp, latCnt := 0 } := by
    rw [State.respond_ctl, h.ctl]
    rfl
  have hcycles : v.env.cycles + s.params.respLat =
      s.env.cycles + requestCycles s.params (frames.map List.length) := by
    obtain ⟨f, rest, rfl⟩ := List.exists_cons_of_ne_nil hframes
    rw [h.env, hparams, henv]
    simp only [framesEnd_eq, State.issue_env, requestCycles, List.map_cons, List.length_cons, List.length_map,
      Bool.toNat_true]
    omega
  have hstarts := startTimes_framesEvents s.params frames true u.pins (s.env.cycles + s.params.issueLat)
  rw [hresp]
  refine ⟨h.cfg.trans hcfg, h.pins, h.pos, h.wait, by rw [hctl],
    framesEvents s.params.qCycles (s.params.gapQ * s.params.qCycles) true u.pins (s.env.cycles + s.params.issueLat) frames,
    framesOf_framesEvents_eq _ _ _ _ _ _, hstarts, ?_⟩
  rw [State.respond_env, hparams', hcycles, h.env, hparams, henv]
  rfl

/-- One position written and rendered, as a whole request whose registers are c at first. -/
theorem State.show_rendered (s : State) (c : Control) (pos : Fin 3) (g : GlyphRef) :
    Rendered s ((({ s with ctl := c } : State).issue.show true pos g).respondAck .nack)
      { c.responded (if s.acked 4 then .ok else .nack) with
        disp := c.disp.set pos g, curTx := lastTx s.params, opAck := s.acked 4 }
      (renderFrames s.params c.bright pos (segmentsOf s.params g)) :=
  (State.show_sends ({ s with ctl := c } : State).issue true pos g).rendered (s := s) rfl rfl
    (renderFrames_ne _ _ _ _) .nack

/-- Every position written and rendered, as a whole request whose pins are p and whose registers are c at first. -/
theorem State.showAll_rendered (s : State) (p : Pins) (c : Control) (g0 g1 g2 : GlyphRef) (failure : Resp) :
    Rendered s ((({ s with pins := p, ctl := c } : State).issue.showAll g0 g1 g2).respondAck failure)
      { c.responded (if s.acked 12 then .ok else failure) with
        disp := #v[g0, g1, g2], curP := 2, curTx := lastTx s.params, opAck := s.acked 12 }
      (renderFrames s.params c.bright 0 (segmentsOf s.params g0) ++
        renderFrames s.params c.bright 1 (segmentsOf s.params g1) ++
        renderFrames s.params c.bright 2 (segmentsOf s.params g2)) :=
  (State.showAll_sends ({ s with pins := p, ctl := c } : State).issue g0 g1 g2).rendered (s := s) rfl rfl
    (fun h => renderFrames_ne _ _ _ _ (List.append_eq_nil_iff.1 h).2) failure

/-! The requests. -/

/-- Settles O26: the construction is three blank renders once the mode and the brightness are set. -/
theorem initEffect : Obligations.InitEffect := by
  intro s ign
  refine ⟨_, rfl, ?_⟩
  have h := s.showAll_rendered { s.pins with dioOe := true } { (s.latch 1 ign).ctl with bright := brightDefault, opAck := true }
    (blankRef s.params) (blankRef s.params) (blankRef s.params) .nodev
  rw [segmentsOf_blank] at h
  exact h

/-- Settles O28: three blank renders at the brightness that was stored. -/
theorem clearEffect : Obligations.ClearEffect := by
  intro s ign
  refine ⟨_, rfl, ?_⟩
  have h := s.showAll_rendered s.pins (s.latch 3 ign).ctl (blankRef s.params) (blankRef s.params) (blankRef s.params) .nack
  rw [segmentsOf_blank] at h
  exact h

theorem exec_setdig_of_legal {pos glyph : Byte} {p : Fin 3} {g : Fin 23} (hp : legalPos pos = some p)
    (hg : legalGlyph glyph = some g) (ign : BitVec 12) (s : State) : exec (.setdig ign pos glyph) s =
      .next (((s.latch 4 (ign ++ pos ++ glyph)).issue.show true p (.index g)).respondAck .nack) := by
  rw [exec, execSetdig, hp, hg]

theorem exec_setdig_of_illegal {pos glyph : Byte} (h : legalPos pos = none ∨ legalGlyph glyph = none) (ign : BitVec 12)
    (s : State) : exec (.setdig ign pos glyph) s = .next (s.latch 4 (ign ++ pos ++ glyph)).raiseInvalid := by
  rw [exec, execSetdig]
  rcases h with h | h
  · rw [h]
  · rw [h]
    cases legalPos pos <;> rfl

/-- Settles O29: a legal position and index are one render of the table's entry, and anything else raises INVALID. -/
theorem setdigEffect : Obligations.SetdigEffect := by
  intro s ign pos glyph
  refine ⟨fun hp hg => ?_, fun h => ?_⟩
  · exact ⟨_, exec_setdig_of_legal (legalPos_of_le hp) (legalGlyph_of_le hg) ign s,
      s.show_rendered (s.latch 4 (ign ++ pos ++ glyph)).ctl _ _⟩
  · exact ⟨_, exec_setdig_of_illegal (h.imp legalPos_of_gt legalGlyph_of_gt) ign s, s.latch_raiseInvalid _ _⟩

theorem exec_setpat_of_legal {pos : Byte} {p : Fin 3} (hp : legalPos pos = some p) (ign : BitVec 12) (pat : Byte)
    (s : State) : exec (.setpat ign pos pat) s =
      .next (((s.latch 5 (ign ++ pos ++ pat)).issue.show true p (.raw pat)).respondAck .nack) := by
  rw [exec, execSetpat, hp]

theorem exec_setpat_of_illegal {pos : Byte} (h : legalPos pos = none) (ign : BitVec 12) (pat : Byte) (s : State) :
    exec (.setpat ign pos pat) s = .next (s.latch 5 (ign ++ pos ++ pat)).raiseInvalid := by
  rw [exec, execSetpat, h]

/-- Settles O30: a legal position is one render of the raw pattern, and any other raises INVALID. -/
theorem setpatEffect : Obligations.SetpatEffect := by
  intro s ign pos pat
  refine ⟨fun hp => ?_, fun h => ?_⟩
  · exact ⟨_, exec_setpat_of_legal (legalPos_of_le hp) ign pat s,
      s.show_rendered (s.latch 5 (ign ++ pos ++ pat)).ctl _ (.raw pat)⟩
  · exact ⟨_, exec_setpat_of_illegal (legalPos_of_gt h) ign pat s, s.latch_raiseInvalid _ _⟩

/-- Settles O31: DIGITS takes the clamped operand's digits, and each position shows its own. -/
theorem setintEffect : Obligations.SetintEffect := by
  intro s v
  refine ⟨?_, _, rfl, ?_⟩
  · rintro _ rfl
    rfl
  · exact s.showAll_rendered s.pins { (s.latch 6 v).ctl with digits := digitsOf v } (digitRef (digitsOf v)[0])
      (digitRef (digitsOf v)[1]) (digitRef (digitsOf v)[2]) .nack

/-- Settles O27: a legal level is stored and answered at once, and any other raises INVALID. -/
theorem setbrtEffect : Obligations.SetbrtEffect := by
  intro s ign level
  refine ⟨fun h => ?_, fun h => ?_⟩
  · rw [exec, execSetbrt, legalLevel_of_le h]
    exact ⟨_, rfl, rfl⟩
  · rw [exec, execSetbrt, legalLevel_of_gt h]
    exact ⟨_, rfl, s.latch_raiseInvalid _ _⟩

end Sys2Proof.Machine
end

section
/-! The frames of every request (spec/42_display_controller.md R163, R175, R180), read off its whole effect. -/

namespace Sys2Proof.Machine

/-! From the effects of a request to its frames. -/

/-- A response cuts no transaction. -/
theorem framesFrom_append_response (r : Resp) (c : Nat) (evs : List PortEvent) (bits : List Bool) (bytes : List Byte) :
    framesFrom bits bytes (evs ++ [.response r c]) = framesFrom bits bytes evs := by
  fun_induction framesFrom bits bytes evs with
  | case1 => rfl
  | case2 | case3 | case4 | case5 | case6 | case7 => simp only [List.cons_append, framesFrom, *]

/-- From s to t the frames of a request were sent. -/
def SendsFrames (s t : State) (frames : List (List Byte)) : Prop := ∃ evs, Emits s t evs ∧ framesOf evs = frames

theorem Rendered.sendsFrames {s t : State} {c : Control} {frames : List (List Byte)} (h : Rendered s t c frames) :
    SendsFrames s t frames := by
  obtain ⟨-, -, -, -, -, evs, hframes, -, henv⟩ := h
  refine ⟨evs ++ [.response c.lastResp (s.env.cycles + requestCycles s.params (frames.map List.length))], ?_, ?_⟩
  · rw [Emits, henv]
    simp
  · rw [framesOf, framesFrom_append_response]
    exact hframes

theorem OnlyAnswered.sendsFrames {s t : State} {c : Control} {op : BitVec 4} {arg : BitVec 28} {r : Resp}
    (h : OnlyAnswered s t c op arg r) : SendsFrames s t [] :=
  ⟨[.response r (s.env.cycles + s.params.respLat)], by rw [OnlyAnswered] at h; rw [Emits, h]; rfl, rfl⟩

/-! What each request renders. -/

/-- The brightness a request renders with (R165 to R170). -/
def State.requestBright (s : State) : Instr → BitVec 3
  | .init _ => brightDefault
  | _ => s.ctl.bright

/-- The positions a request renders, in order, each with its pattern (R165 to R170). -/
def requestRenders (p : Params) : Instr → List (Fin 3 × Byte)
  | .init _ | .clear _ => [(0, 0x00), (1, 0x00), (2, 0x00)]
  | .setdig _ pos glyph =>
    match legalPos pos, legalGlyph glyph with
    | some a, some g => [(a, p.segTable.get g)]
    | _, _ => []
  | .setpat _ pos pat =>
    match legalPos pos with
    | some a => [(a, pat)]
    | none => []
  | .setint v => [(0, segmentsOf p (digitRef (digitsOf v)[0])), (1, segmentsOf p (digitRef (digitsOf v)[1])),
      (2, segmentsOf p (digitRef (digitsOf v)[2]))]
  | _ => []

/-- Renders with one brightness, one after another. -/
def rendersFrames (p : Params) (b : BitVec 3) (l : List (Fin 3 × Byte)) : List (List Byte) :=
  l.flatMap fun r => renderFrames p b r.1 r.2

/-- A render by itself. -/
theorem rendersFrames_one (p : Params) (b : BitVec 3) (r : Fin 3 × Byte) :
    rendersFrames p b [r] = renderFrames p b r.1 r.2 :=
  List.append_nil _

/-- The three renders of INIT, CLEAR and SETINT. -/
theorem rendersFrames_three (p : Params) (b : BitVec 3) (r0 r1 r2 : Fin 3 × Byte) :
    rendersFrames p b [r0, r1, r2] =
      renderFrames p b r0.1 r0.2 ++ renderFrames p b r1.1 r1.2 ++ renderFrames p b r2.1 r2.2 := by
  simp [rendersFrames]

theorem requestRenders_setdig_of_legal {pos glyph : Byte} {a : Fin 3} {g : Fin 23} (hp : legalPos pos = some a)
    (hg : legalGlyph glyph = some g) (ign : BitVec 12) (p : Params) :
    requestRenders p (.setdig ign pos glyph) = [(a, p.segTable.get g)] := by
  rw [requestRenders, hp, hg]

theorem requestRenders_setdig_of_illegal {pos glyph : Byte} (h : legalPos pos = none ∨ legalGlyph glyph = none)
    (ign : BitVec 12) (p : Params) : requestRenders p (.setdig ign pos glyph) = [] := by
  rw [requestRenders]
  rcases h with h | h
  · rw [h]
  · rw [h]
    cases legalPos pos <;> rfl

theorem requestRenders_setpat_of_legal {pos : Byte} {a : Fin 3} (hp : legalPos pos = some a) (ign : BitVec 12)
    (pat : Byte) (p : Params) : requestRenders p (.setpat ign pos pat) = [(a, pat)] := by
  rw [requestRenders, hp]

theorem requestRenders_setpat_of_illegal {pos : Byte} (hp : legalPos pos = none) (ign : BitVec 12) (pat : Byte)
    (p : Params) : requestRenders p (.setpat ign pos pat) = [] := by
  rw [requestRenders, hp]

/-- Every request sends its renders, with one brightness, and nothing else. -/
theorem exec_sendsFrames {i : Instr} (hi : i.isRequest = true) (s : State) : ∃ t, exec i s = .next t ∧
    SendsFrames s t (rendersFrames s.params (s.requestBright i) (requestRenders s.params i)) := by
  cases i with
  | init ign =>
    obtain ⟨t, ht, h⟩ := initEffect s ign
    exact ⟨t, ht, by rw [requestRenders, rendersFrames_three]; exact h.sendsFrames⟩
  | clear ign =>
    obtain ⟨t, ht, h⟩ := clearEffect s ign
    exact ⟨t, ht, by rw [requestRenders, rendersFrames_three]; exact h.sendsFrames⟩
  | setint v =>
    obtain ⟨-, t, ht, h⟩ := setintEffect s v
    exact ⟨t, ht, by rw [requestRenders, rendersFrames_three]; exact h.sendsFrames⟩
  | setbrt ign level =>
    obtain ⟨hlegal, hillegal⟩ := setbrtEffect s ign level
    rcases Nat.lt_or_ge 7 level.toNat with h | h
    · obtain ⟨t, ht, hans⟩ := hillegal h
      exact ⟨t, ht, hans.sendsFrames⟩
    · obtain ⟨t, ht, hans⟩ := hlegal h
      exact ⟨t, ht, hans.sendsFrames⟩
  | setdig ign pos glyph =>
    have hrefused (h : legalPos pos = none ∨ legalGlyph glyph = none) : ∃ t, exec (.setdig ign pos glyph) s = .next t ∧
        SendsFrames s t (rendersFrames s.params s.ctl.bright (requestRenders s.params (.setdig ign pos glyph))) := by
      rw [requestRenders_setdig_of_illegal h]
      exact ⟨_, exec_setdig_of_illegal h ign s, (s.latch_raiseInvalid _ _).sendsFrames⟩
    cases hp : legalPos pos with
    | none => exact hrefused (.inl hp)
    | some a =>
      cases hg : legalGlyph glyph with
      | none => exact hrefused (.inr hg)
      | some g =>
        rw [requestRenders_setdig_of_legal hp hg, rendersFrames_one]
        exact ⟨_, exec_setdig_of_legal hp hg ign s, (s.show_rendered (s.latch 4 _).ctl a (.index g)).sendsFrames⟩
  | setpat ign pos pat =>
    cases hp : legalPos pos with
    | none =>
      rw [requestRenders_setpat_of_illegal hp]
      exact ⟨_, exec_setpat_of_illegal hp ign pat s, (s.latch_raiseInvalid _ _).sendsFrames⟩
    | some a =>
      rw [requestRenders_setpat_of_legal hp, rendersFrames_one]
      exact ⟨_, exec_setpat_of_legal hp ign pat s, (s.show_rendered (s.latch 5 _).ctl a (.raw pat)).sendsFrames⟩
  | illegalZero arg | illegalSeven arg | illegalHigh sub arg =>
    exact ⟨_, rfl, (s.latch_raiseInvalid _ _).sendsFrames⟩
  | fixedAddr | addr p | data v | dispOn b | dispOff => cases hi

/-! What renders have in common. -/

theorem rendersFrames_flatten (p : Params) (b : BitVec 3) (l : List (Fin 3 × Byte)) :
    (rendersFrames p b l).flatten = l.flatMap fun r => [p.cmdFixedAddr, addrByte p r.1, r.2, dispOnByte p b] := by
  simp only [rendersFrames, ← List.flatMap_id, List.flatMap_assoc]
  simp only [List.flatMap_id, renderFrames_flatten]

/-- Settles O56: the frames are `rendersFrames` of what the request renders. -/
theorem requestsSendWholeRenders : Obligations.RequestsSendWholeRenders := by
  intro i s hi
  obtain ⟨t, ht, evs, hevs, hframes⟩ := exec_sendsFrames hi s
  exact ⟨t, ht, evs, hevs, s.requestBright i, requestRenders s.params i, hframes,
    (congrArg List.flatten hframes).trans (rendersFrames_flatten _ _ _)⟩

theorem rendersFrames_map_length (p : Params) (b : BitVec 3) (l : List (Fin 3 × Byte)) :
    (rendersFrames p b l).map List.length = l.flatMap fun _ => renderLens p := by
  simp only [rendersFrames, List.map_flatMap, renderFrames_map_length]

/-- A request's transactions are as long as those of its renders. -/
theorem requestRenders_lens (p : Params) (i : Instr) :
    ((requestRenders p i).flatMap fun _ => renderLens p) = requestLens p i := by
  cases i with
  | init | clear | setint => simp [requestRenders, requestLens]
  | setdig ign pos glyph =>
    rw [requestRenders, requestLens]
    cases legalPos pos with
    | none => rfl
    | some a => cases legalGlyph glyph <;> simp
  | setpat ign pos pat =>
    rw [requestRenders, requestLens]
    cases legalPos pos <;> simp
  | setbrt | illegalZero | illegalSeven | illegalHigh => rfl
  | fixedAddr | addr | data | dispOn | dispOff => rfl

theorem renderLens_sum (p : Params) : (renderLens p).sum = 4 := by
  rw [renderLens]
  split <;> rfl

theorem legalPos_isSome (b : Byte) : (legalPos b).isSome = decide (b.toNat ≤ 2) := by
  rcases Nat.lt_or_ge 2 b.toNat with h | h
  · simp [legalPos_of_gt h, h]
  · simp [legalPos_of_le h, h]

theorem legalGlyph_isSome (b : Byte) : (legalGlyph b).isSome = decide (b.toNat ≤ 22) := by
  rcases Nat.lt_or_ge 22 b.toNat with h | h
  · simp [legalGlyph_of_gt h, h]
  · simp [legalGlyph_of_le h, h]

/-- Settles O36: the lengths are the renders', four bytes each. -/
theorem fixedByteCounts : Obligations.FixedByteCounts := by
  intro i s hi
  obtain ⟨t, ht, evs, hevs, hframes⟩ := exec_sendsFrames hi s
  have hlens : (framesOf evs).map List.length = requestLens s.params i := by
    rw [hframes, rendersFrames_map_length, requestRenders_lens]
  refine ⟨t, ht, evs, hevs, hlens, ?_⟩
  rw [List.length_flatten, hlens]
  cases i with
  | init | clear | setint => simp [requestLens, renderLens_sum]
  | setdig ign pos glyph =>
    simp only [requestLens, legalPos_isSome, legalGlyph_isSome, Bool.and_eq_true, decide_eq_true_eq]
    split
    · exact renderLens_sum s.params
    · rfl
  | setpat ign pos pat =>
    simp only [requestLens, legalPos_isSome, decide_eq_true_eq]
    split
    · exact renderLens_sum s.params
    · rfl
  | setbrt | illegalZero | illegalSeven | illegalHigh => rfl
  | fixedAddr | addr | data | dispOn | dispOff => rfl

/-! DISP_OFF (R175). -/

/-- A command's byte decodes to that command, so two commands' bytes are different. -/
theorem ne_of_decodeCommand {p : Params} {a b : Byte} {i j : Instr} (ha : decodeCommand p a = some i)
    (hb : decodeCommand p b = some j) (h : i ≠ j) : a ≠ b := by
  rintro rfl
  exact h (Option.some.inj (ha.symm.trans hb))

/-- Where the command values do not overlap, CMD_DISP_OFF stands in a render's frame in DATA's place alone. -/
theorem dispOff_place {p : Params} (h : p.commandsDistinct = true) {b : BitVec 3} {pos : Fin 3} {pat : Byte}
    {f : List Byte} (hf : f ∈ renderFrames p b pos pat) {k : Nat} (hk : f[k]? = some p.cmdDispOff) :
    (p.framing = .single ∧ k = 2) ∨ (p.framing = .perCommand ∧ f.length = 2 ∧ k = 1) := by
  have hoff := decodeCommand_dispOff h
  have hfixed : p.cmdFixedAddr ≠ p.cmdDispOff := ne_of_decodeCommand (decodeCommand_fixedAddr p) hoff nofun
  have haddr : addrByte p pos ≠ p.cmdDispOff := ne_of_decodeCommand (decodeCommand_addrByte h pos) hoff nofun
  have hon : dispOnByte p b ≠ p.cmdDispOff := ne_of_decodeCommand (decodeCommand_dispOn h b) hoff nofun
  rw [renderFrames] at hf
  cases hframing : p.framing with
  | single =>
    rw [hframing, List.mem_singleton] at hf
    subst hf
    rcases k with - | - | - | - | k
    · exact absurd (Option.some.inj hk) hfixed
    · exact absurd (Option.some.inj hk) haddr
    · exact .inl ⟨rfl, rfl⟩
    · exact absurd (Option.some.inj hk) hon
    · cases hk
  | perCommand =>
    simp only [hframing, List.mem_cons, List.not_mem_nil, or_false] at hf
    rcases hf with rfl | rfl | rfl
    · rcases k with - | k
      · exact absurd (Option.some.inj hk) hfixed
      · cases hk
    · rcases k with - | - | k
      · exact absurd (Option.some.inj hk) haddr
      · exact .inr ⟨rfl, rfl, rfl⟩
      · cases hk
    · rcases k with - | k
      · exact absurd (Option.some.inj hk) hon
      · cases hk

/-- Settles O39: each frame of a request is a frame of one of its renders. -/
theorem noRequestSendsDispOff : Obligations.NoRequestSendsDispOff := by
  intro i s hi hdistinct
  obtain ⟨t, ht, evs, hevs, hframes⟩ := exec_sendsFrames hi s
  refine ⟨t, ht, evs, hevs, fun f hf k b hk hb => ?_⟩
  rw [hframes] at hf
  obtain ⟨r, -, hfr⟩ := List.mem_flatMap.1 hf
  exact dispOff_place hdistinct hfr (hb ▸ hk)

end Sys2Proof.Machine
end

section
/-! Acceptance and the response on the clock (spec/42_display_controller.md R160, R161), and the request port while the block
is busy (R57). -/

namespace Sys2Proof.Machine

/-! Acceptance. -/

/-- A ready block fetches the request presented. -/
theorem State.fetch_of_ready {s : State} {w : ReqWord} {rest : List (Option ReqWord)} (hready : s.ctl.busy = false)
    (hreq : s.env.reqIn = some w :: rest) : s.fetch = some (decodeRequest w, s.popReq) := by
  rw [State.fetch, if_pos hready, hreq]

/-- Settles O41: what is fetched is run. -/
theorem stepRunsThePresentedRequest : Obligations.StepRunsThePresentedRequest := by
  intro s w rest hgrain hrst hready hreq
  have hfetch : s.popRst.fetch = some (decodeRequest w, s.popRst.popReq) := State.fetch_of_ready hready hreq
  have hpop : s.popRst.popReq = { s with env := { s.env with rstIn := s.env.rstIn.tail, reqIn := rest } } := by
    simp [State.popRst, State.popReq, hreq]
  simp only [step, hgrain, hrst, hfetch, hpop, Bool.false_eq_true, if_false]

/-- From s to t the latched request and the surroundings stay. -/
structure State.KeepsRequest (s t : State) : Prop where
  curOp : t.ctl.curOp = s.ctl.curOp
  curArg : t.ctl.curArg = s.ctl.curArg
  busy : t.ctl.busy = s.ctl.busy
  env : t.env = s.env

theorem State.launch_keepsRequest (s : State) : s.KeepsRequest s.launch := by
  rw [State.launch]
  split <;> exact ⟨rfl, rfl, rfl, rfl⟩

/-- A request's first transaction is loaded. -/
theorem State.beginBus_keepsRequest (s : State) (pos : Fin 3) (g : GlyphRef) : s.KeepsRequest (s.beginBus pos g) :=
  have h := (s.awaitBus pos g).launch_keepsRequest
  ⟨h.curOp, h.curArg, h.busy, h.env⟩

theorem State.answer_keepsRequest (s : State) (r : Resp) : s.KeepsRequest (s.answer r) := ⟨rfl, rfl, rfl, rfl⟩

/-- One write after another. -/
theorem State.KeepsRequest.trans {s t u : State} (h : s.KeepsRequest t) (h' : t.KeepsRequest u) : s.KeepsRequest u :=
  ⟨h'.curOp.trans h.curOp, h'.curArg.trans h.curArg, h'.busy.trans h.busy, h'.env.trans h.env⟩

theorem State.startInit_keepsRequest (s : State) : s.KeepsRequest s.startInit :=
  have hregs : s.KeepsRequest ((s.outputMode.setBright brightDefault).setCurP 0) := ⟨rfl, rfl, rfl, rfl⟩
  hregs.trans (State.beginBus_keepsRequest _ _ _)

theorem State.dispatch_keepsRequest (s : State) : s.KeepsRequest s.dispatch := by
  have hcurP : s.KeepsRequest (s.setCurP 0) := ⟨rfl, rfl, rfl, rfl⟩
  have hbright (b : BitVec 3) : s.KeepsRequest (s.setBright b) := ⟨rfl, rfl, rfl, rfl⟩
  have hdigits : s.KeepsRequest ((s.setDigits (digitsOf s.ctl.curArg)).setCurP 0) := ⟨rfl, rfl, rfl, rfl⟩
  unfold State.dispatch
  split
  case h_1 => exact s.startInit_keepsRequest
  case h_2 =>
    split
    · exact (hbright _).trans (State.answer_keepsRequest _ _)
    · exact s.answer_keepsRequest _
  case h_3 => exact hcurP.trans (State.beginBus_keepsRequest _ _ _)
  case h_4 =>
    split
    · exact s.beginBus_keepsRequest _ _
    · exact s.answer_keepsRequest _
  case h_5 =>
    split
    · exact s.beginBus_keepsRequest _ _
    · exact s.answer_keepsRequest _
  case h_6 => exact hdigits.trans (State.beginBus_keepsRequest _ _ _)
  case h_7 => exact s.answer_keepsRequest _

/-- A ready block in a cycle without reset. -/
theorem State.tick_ready {s : State} (hrst : s.rstLevel = false) (hready : s.ctl.busy = false) :
    s.tick = s.popRst.readyCycle := by
  have hlive : s.popRst.liveCycle = s.popRst.readyCycle := if_pos hready
  rw [State.tick, hrst, ← hlive]
  rfl

/-- Settles O43: the fields are latched, and dispatch keeps them. -/
theorem acceptanceLatchesTheWord : Obligations.AcceptanceLatchesTheWord := by
  intro s w rest hrst hready hreq
  have hreq' : s.popRst.env.reqIn = some w :: rest := hreq
  have h := (s.popRst.popReq.latch (w.extractLsb' 28 4) (w.extractLsb' 0 28)).dispatch_keepsRequest
  have hrest : s.popRst.popReq.env.reqIn = rest := congrArg List.tail hreq
  rw [State.tick_ready hrst hready, State.readyCycle, hreq', State.pass_ctl, State.pass_env, h.env]
  exact ⟨h.curOp, h.curArg, h.busy, hrest, rfl, rfl⟩

/-- A posted response in a cycle without reset: the pulse is over. -/
theorem State.tick_response {s : State} (hrst : s.rstLevel = false) (hbusy : s.ctl.busy = true)
    (hposted : s.ctl.respValid = true) : s.tick = s.popRst.closeResponse := by
  rcases s.tick_cases with ⟨h, -⟩ | ⟨-, h, -⟩ | ⟨-, -, -, h⟩ | ⟨-, -, h, -⟩
  · cases hrst.symm.trans h
  · cases hbusy.symm.trans h
  · exact h
  · cases hposted.symm.trans h

/-- Settles O45: the cycle is `closeResponse`. -/
theorem responsePulseLastsOneCycle : Obligations.ResponsePulseLastsOneCycle := by
  intro s hrst hbusy hposted
  rw [State.tick_response hrst hbusy hposted]
  exact ⟨rfl, rfl, rfl, rfl⟩

/-! The request port while the block is busy. -/

/-- s with other requests presented. -/
def State.withReq (s : State) (r : List (Option ReqWord)) : State := { s with env := { s.env with reqIn := r } }

/-- A case distinction that leads to states with the same requests presented in both branches. -/
theorem ite_withReq {c : Prop} [Decidable c] {a b a' b' : State} {r : List (Option ReqWord)} (ha : a' = a.withReq r)
    (hb : b' = b.withReq r) : (if c then a' else b') = (if c then a else b).withReq r := by
  rw [ha, hb, apply_ite (State.withReq · r)]

section WithReq

variable (s : State) (r : List (Option ReqWord))

theorem State.launch_withReq : (s.withReq r).launch = s.launch.withReq r := by
  unfold State.launch
  exact ite_withReq rfl rfl

theorem State.startInit_withReq : (s.withReq r).startInit = s.startInit.withReq r :=
  State.launch_withReq s.awaitInit r

theorem State.issueCycle_withReq : (s.withReq r).issueCycle = s.issueCycle.withReq r := by
  unfold State.issueCycle
  rw [← State.launch_withReq]
  exact congrArg State.launch (ite_withReq rfl rfl)

theorem State.moveOn_withReq (m : MicroOp) : (s.withReq r).moveOn m = (s.moveOn m).withReq r := by
  cases m with
  | b3 | a7 => exact ite_withReq rfl rfl
  | s1 | s2 | s3 | b1 | b2 | a1 | a2 | a3 | a4 | a5 | a6 | p1 | p2 | p3 => rfl

theorem State.act_withReq (a : Action) : (s.withReq r).act a = (s.act a).withReq r := by
  cases a <;> rfl

theorem State.perform_withReq (m : MicroOp) : (s.withReq r).perform m = (s.perform m).withReq r := by
  have hmove := State.moveOn_withReq (s.act (actionOf s.curBit m)) r m
  rw [← State.act_withReq] at hmove
  exact congrArg (fun t : State => ((t.loadWait (waitOf m)).emitMicro m).pass 1) hmove

theorem State.endFrame_withReq : (s.withReq r).endFrame = s.endFrame.withReq r := by
  have hfold : (s.withReq r).foldOpAck = s.foldOpAck.withReq r := rfl
  have hpos (t : State) : (t.withReq r).renderPos = t.renderPos := rfl
  unfold State.endFrame
  rw [hfold]
  generalize s.foldOpAck = t
  dsimp only
  rw [hpos]
  cases t.renderPos with
  | none => rfl
  | some pos =>
    have htx := State.launch_withReq ((t.beginTx pos (t.ctl.curTx + 1)).loadWait t.params.gapQ) r
    have hrender := State.launch_withReq (((t.setCurP (t.ctl.curP + 1)).beginRender (t.ctl.curP + 1)
      (t.nextGlyph (t.ctl.curP + 1))).loadWait t.params.gapQ) r
    exact ite_withReq htx (ite_withReq hrender rfl)

theorem State.runCycle_withReq : (s.withReq r).runCycle = s.runCycle.withReq r := by
  have hpos : (s.withReq r).chan.pos = s.chan.pos := rfl
  unfold State.runCycle
  refine ite_withReq (ite_withReq (State.endFrame_withReq s.countWait r) rfl) ?_
  rw [hpos]
  cases s.chan.pos with
  | none => exact congrArg (State.pass · 1) (s.endFrame_withReq r)
  | some m => exact s.perform_withReq r m

theorem State.respCycle_withReq : (s.withReq r).respCycle = s.respCycle.withReq r := by
  unfold State.respCycle
  exact ite_withReq rfl rfl

theorem State.liveCycle_withReq (hbusy : s.ctl.busy = true) : (s.withReq r).liveCycle = s.liveCycle.withReq r := by
  have hready : ¬ s.ctl.busy = false := by simp [hbusy]
  have hready' : ¬ (s.withReq r).ctl.busy = false := hready
  have hstage : (s.withReq r).ctl.stage = s.ctl.stage := rfl
  unfold State.liveCycle
  rw [if_neg hready, if_neg hready', hstage]
  refine ite_withReq rfl ?_
  cases s.ctl.stage with
  | boot => exact congrArg (State.pass · 1) (s.startInit_withReq r)
  | issue => exact s.issueCycle_withReq r
  | run => exact s.runCycle_withReq r
  | resp => exact s.respCycle_withReq r

/-- A cycle of a busy block does not see the request port, and leaves it as it is. -/
theorem State.tick_withReq (hbusy : s.ctl.busy = true) : (s.withReq r).tick = s.tick.withReq r := by
  unfold State.tick
  exact ite_withReq rfl (s.popRst.liveCycle_withReq r hbusy)

end WithReq

/-- Settles O44: a cycle of a busy block is blind to the port; with the port as it is, that says that it keeps it. -/
theorem busyBlockIgnoresTheRequestPort : Obligations.BusyBlockIgnoresTheRequestPort := by
  intro s r hbusy
  have hkeep : s.tick = s.tick.withReq s.env.reqIn := s.tick_withReq s.env.reqIn hbusy
  exact ⟨by rw [hkeep]; rfl, s.tick_withReq r hbusy⟩

end Sys2Proof.Machine
end

section
/-! DISP before the bus (spec/42_display_controller.md R172, spec/20_memory.md R59): what each function of the sequencer makes
of a state that shows what its registers hold. -/

namespace Sys2Proof.Machine

/-! Which glyph a request shows at a position. -/

/-- A request that renders every position is INIT, CLEAR or SETINT. -/
theorem State.rendersAll_iff (s : State) : s.rendersAll = true ↔ s.ctl.curOp = 1 ∨ s.ctl.curOp = 3 ∨ s.ctl.curOp = 6 := by
  simp only [State.rendersAll, Bool.or_eq_true, beq_iff_eq, or_assoc]

theorem State.renderPos_of_rendersAll {s : State} (h : s.rendersAll = true) : s.renderPos = some s.ctl.curP := by
  rw [State.renderPos, if_pos h]

/-- SETDIG and SETPAT render the position of their operand (spec/10_state.md R32). -/
theorem State.renderPos_of_one {s : State} (h : s.rendersAll = false) : s.renderPos = legalPos (argPos s.ctl.curArg) := by
  rw [State.renderPos, h]
  rfl

theorem State.requestGlyph_of_blank {s : State} (h : s.ctl.curOp = 1 ∨ s.ctl.curOp = 3) (p : Fin 3) :
    s.requestGlyph p = some (blankRef s.params) := by
  rcases h with h | h
  · rw [State.requestGlyph, h]
    rfl
  · rw [State.requestGlyph, h]
    rfl

theorem State.requestGlyph_of_setint {s : State} (h : s.ctl.curOp = 6) (p : Fin 3) :
    s.requestGlyph p = some (digitRef ((digitsOf s.ctl.curArg).get p)) := by
  rw [State.requestGlyph, h]
  rfl

theorem State.requestGlyph_of_setdig {s : State} (h : s.ctl.curOp = 4) {g : Fin 23}
    (hg : legalGlyph (argLow s.ctl.curArg) = some g) (p : Fin 3) : s.requestGlyph p = some (.index g) := by
  rw [State.requestGlyph, h]
  exact congrArg (Option.map GlyphRef.index) hg

theorem State.requestGlyph_of_setpat {s : State} (h : s.ctl.curOp = 5) (p : Fin 3) :
    s.requestGlyph p = some (.raw (argLow s.ctl.curArg)) := by
  rw [State.requestGlyph, h]
  rfl

/-- The sequencer's next glyph is the request's, DIGITS holding SETINT's digits. -/
theorem State.requestGlyph_of_rendersAll {s : State} (h : s.rendersAll = true)
    (hdigits : s.ctl.curOp = 6 → s.ctl.digits = digitsOf s.ctl.curArg) (p : Fin 3) :
    s.requestGlyph p = some (s.nextGlyph p) := by
  rw [State.nextGlyph]
  rcases s.rendersAll_iff.1 h with hop | hop | hop
  · rw [State.requestGlyph_of_blank (.inl hop), hop]
    rfl
  · rw [State.requestGlyph_of_blank (.inr hop), hop]
    rfl
  · rw [State.requestGlyph_of_setint hop, ← hdigits hop, hop]
    rfl

/-! Showing: what it depends on, and what establishes it. -/

/-- A block that awaits and sends no transaction, and is past its construction, has nothing to show. -/
theorem State.Showing.of_resp {s : State} (h : s.ctl.stage = .resp) : s.Showing where
  boot hs := by simp [h] at hs
  digits hs := by simp [h] at hs
  shown hs := by simp [h] at hs

/-- Every transaction of a render, and so every one loaded, fits FRAME. -/
theorem renderFrames_getD_length_le (p : Params) (b : BitVec 3) (pos : Fin 3) (pat : Byte) (tx : Nat) :
    ((renderFrames p b pos pat).getD tx []).length ≤ 4 := by
  rcases Nat.lt_or_ge tx (renderFrames p b pos pat).length with h | h
  · rw [renderFrames_length] at h
    exact (renderFrames_getD_length p b pos pat h).2
  · rw [List.getD_eq_default _ _ h]
    exact Nat.zero_le _

/-- A frame loaded is what FRAME holds up to FRAME_LEN (R137). -/
theorem State.loadFrame_take (s : State) {bytes : List Byte} (h : bytes.length ≤ 4) :
    (s.loadFrame bytes).chan.frame.toList.take (s.loadFrame bytes).chan.frameLen.toNat = bytes := by
  rw [State.loadFrame_frameLen s h]
  exact loadedFrame_take s.chan.frame bytes h

/-- A transaction loaded for a position where DISP holds the request's glyph. -/
theorem State.beginTx_showing {s : State} {pos : Fin 3} (tx : Fin 3)
    (hdigits : s.ctl.curOp = 6 → s.ctl.digits = digitsOf s.ctl.curArg) (hpos : s.renderPos = some pos)
    (hglyph : s.requestGlyph pos = some (s.ctl.disp.get pos)) : (s.beginTx pos tx).Showing where
  boot := nofun
  digits _ := hdigits
  shown _ := ⟨pos, hpos, hglyph, State.loadFrame_take _ (renderFrames_getD_length_le _ _ _ _ _)⟩

/-- A render begun at a position with the request's glyph there. -/
theorem State.beginRender_showing {s : State} {pos : Fin 3} {g : GlyphRef}
    (hdigits : s.ctl.curOp = 6 → s.ctl.digits = digitsOf s.ctl.curArg) (hpos : s.renderPos = some pos)
    (hglyph : s.requestGlyph pos = some g) : (s.beginRender pos g).Showing := by
  have hdisp : (s.setDisp pos g).ctl.disp.get pos = g := Vector.getElem_set_self _
  have hshown : (s.setDisp pos g).requestGlyph pos = some ((s.setDisp pos g).ctl.disp.get pos) := by
    rw [hdisp]
    exact hglyph
  exact State.beginTx_showing (s := s.setDisp pos g) 0 hdigits hpos hshown

/-- The end of the wait for S1 writes neither DISP nor FRAME. -/
theorem State.Showing.launch {s : State} (h : s.Showing) (hstage : s.ctl.stage = .issue) : s.launch.Showing := by
  unfold State.launch
  split
  · exact ⟨nofun, fun _ => h.digits (.inl hstage), fun _ => h.shown (.inl hstage)⟩
  · exact h

theorem State.beginBus_showing {s : State} {pos : Fin 3} {g : GlyphRef}
    (hdigits : s.ctl.curOp = 6 → s.ctl.digits = digitsOf s.ctl.curArg) (hpos : s.renderPos = some pos)
    (hglyph : s.requestGlyph pos = some g) : (s.beginBus pos g).Showing := by
  have h : (s.awaitBus pos g).Showing := State.beginRender_showing hdigits hpos hglyph
  exact h.launch rfl

/-! A request begins. -/

/-- INIT and CLEAR begin with Blank at CUR_P. -/
theorem State.beginBus_showing_of_blank {s : State} (hop : s.ctl.curOp = 1 ∨ s.ctl.curOp = 3) :
    (s.beginBus s.ctl.curP (blankRef s.params)).Showing := by
  have hall : s.rendersAll = true := s.rendersAll_iff.2 (hop.imp_right .inl)
  have hsix : s.ctl.curOp ≠ 6 := by rcases hop with h | h <;> simp [h]
  exact State.beginBus_showing (fun h => absurd h hsix) (State.renderPos_of_rendersAll hall)
    (State.requestGlyph_of_blank hop _)

/-- A request that renders one position begins at its operand's. -/
theorem State.beginBus_showing_of_one {s : State} {pos : Fin 3} {g : GlyphRef} (hop : s.ctl.curOp = 4 ∨ s.ctl.curOp = 5)
    (hpos : legalPos (argPos s.ctl.curArg) = some pos) (hglyph : s.requestGlyph pos = some g) :
    (s.beginBus pos g).Showing := by
  have hone : s.rendersAll = false := by
    rcases hop with h | h
    · rw [State.rendersAll, h]
      rfl
    · rw [State.rendersAll, h]
      rfl
  have hsix : s.ctl.curOp ≠ 6 := by rcases hop with h | h <;> simp [h]
  exact State.beginBus_showing (fun h => absurd h hsix) ((State.renderPos_of_one hone).trans hpos) hglyph

theorem State.startInit_showing {s : State} (hop : s.ctl.curOp = 1) : s.startInit.Showing :=
  State.beginBus_showing_of_blank (s := (s.outputMode.setBright brightDefault).setCurP 0) (.inl hop)

/-- Whatever the request, DISP and FRAME hold what it shows first. -/
theorem State.dispatch_showing (s : State) : s.dispatch.Showing := by
  unfold State.dispatch
  split
  case h_1 h => exact State.startInit_showing (BitVec.eq_of_toNat_eq h)
  case h_2 =>
    split
    · exact .of_resp rfl
    · exact .of_resp rfl
  case h_3 h => exact State.beginBus_showing_of_blank (s := s.setCurP 0) (.inr (BitVec.eq_of_toNat_eq h))
  case h_4 h =>
    have hop : s.ctl.curOp = 4 := BitVec.eq_of_toNat_eq h
    split
    · next hp hg => exact State.beginBus_showing_of_one (.inl hop) hp (State.requestGlyph_of_setdig hop hg _)
    · exact .of_resp rfl
  case h_5 h =>
    have hop : s.ctl.curOp = 5 := BitVec.eq_of_toNat_eq h
    split
    · next hp => exact State.beginBus_showing_of_one (.inr hop) hp (State.requestGlyph_of_setpat hop _)
    · exact .of_resp rfl
  case h_6 h =>
    have hop : s.ctl.curOp = 6 := BitVec.eq_of_toNat_eq h
    have hall : s.rendersAll = true := s.rendersAll_iff.2 (.inr (.inr hop))
    exact State.beginBus_showing (s := (s.setDigits (digitsOf s.ctl.curArg)).setCurP 0) (fun _ => rfl)
      (State.renderPos_of_rendersAll hall) (State.requestGlyph_of_setint hop 0)
  case h_7 => exact .of_resp rfl

/-! A cycle. -/

theorem State.Showing.loadWait {s : State} (h : s.Showing) (k : Nat) : (s.loadWait k).Showing :=
  ⟨h.boot, h.digits, h.shown⟩

/-- After a transaction, the next one of the render shows the same glyph, and the next position's its own. -/
theorem State.Showing.endFrame {s : State} (h : s.Showing) (hstage : s.ctl.stage = .run) : s.endFrame.Showing := by
  have hfold : s.foldOpAck.Showing := ⟨h.boot, h.digits, h.shown⟩
  have hdigits := hfold.digits (.inr hstage)
  obtain ⟨p, hpos, hglyph, -⟩ := hfold.shown (.inr hstage)
  unfold State.endFrame
  dsimp only
  rw [hpos]
  dsimp only
  split
  · exact ((State.beginTx_showing _ hdigits hpos hglyph).loadWait _).launch rfl
  · split
    · next hnext =>
      obtain ⟨hall, -⟩ := Bool.and_eq_true_iff.1 hnext
      have hrender : ((s.foldOpAck.setCurP (s.foldOpAck.ctl.curP + 1)).beginRender (s.foldOpAck.ctl.curP + 1)
          (s.foldOpAck.nextGlyph (s.foldOpAck.ctl.curP + 1))).Showing :=
        State.beginRender_showing hdigits (State.renderPos_of_rendersAll hall)
          (State.requestGlyph_of_rendersAll hall hdigits _)
      exact (hrender.loadWait _).launch rfl
    · exact .of_resp rfl

theorem State.Showing.countWait {s : State} (h : s.Showing) : s.countWait.Showing := ⟨h.boot, h.digits, h.shown⟩

theorem State.Showing.perform {s : State} (h : s.Showing) (m : MicroOp) : (s.perform m).Showing := by
  obtain ⟨_, _, _, _, _, _, _, _, hm⟩ := s.perform_eq m
  rw [hm]
  exact ⟨h.boot, h.digits, h.shown⟩

theorem State.Showing.pass {s : State} (h : s.Showing) (n : Nat) : (s.pass n).Showing := ⟨h.boot, h.digits, h.shown⟩

theorem State.Showing.runCycle {s : State} (h : s.Showing) (hstage : s.ctl.stage = .run) : s.runCycle.Showing := by
  unfold State.runCycle
  split
  · split
    · exact h.countWait.endFrame hstage
    · exact h.countWait
  · split
    · exact h.perform _
    · exact (h.endFrame hstage).pass 1

theorem State.Showing.issueCycle {s : State} (h : s.Showing) (hstage : s.ctl.stage = .issue) : s.issueCycle.Showing := by
  have hlatency : s.countLatency.Showing := ⟨h.boot, h.digits, h.shown⟩
  unfold State.issueCycle
  split
  · exact hlatency.launch hstage
  · exact h.countWait.launch hstage

theorem State.Showing.readyCycle {s : State} (h : s.Showing) : s.readyCycle.Showing := by
  unfold State.readyCycle
  split
  · exact (State.dispatch_showing _).pass 1
  · exact ⟨h.boot, h.digits, h.shown⟩

theorem State.resetFor_showing (c : Config) (e : Env) : (State.resetFor c e).Showing where
  boot _ := rfl
  digits := nofun
  shown := nofun

theorem State.Showing.tick {s : State} (h : s.Showing) : s.tick.Showing := by
  have hpop : s.popRst.Showing := ⟨h.boot, h.digits, h.shown⟩
  rcases s.tick_cases with ⟨-, ht⟩ | ⟨-, -, ht⟩ | ⟨-, -, -, ht⟩ | ⟨-, -, -, hlive⟩
  · rw [ht]
    exact State.resetFor_showing s.cfg s.resetCycle.env
  · rw [ht]
    exact hpop.readyCycle
  · rw [ht]
    exact ⟨h.boot, h.digits, h.shown⟩
  · rcases hlive with ⟨hstage, ht⟩ | ⟨hstage, ht⟩ | ⟨hstage, ht⟩ | ⟨hstage, ht⟩
    · rw [ht]
      exact (State.startInit_showing (s := s.popRst) (h.boot hstage)).pass 1
    · rw [ht]
      exact hpop.issueCycle hstage
    · rw [ht]
      exact hpop.runCycle hstage
    · rw [ht, State.respCycle]
      split <;> exact .of_resp hstage

/-- Settles O59: reset awaits no transaction, and a cycle keeps what is shown. -/
theorem dispHoldsTheGlyphBeforeItsRender : Obligations.DispHoldsTheGlyphBeforeItsRender :=
  ⟨State.resetFor_showing, fun _ h => h.tick⟩

end Sys2Proof.Machine
end

section
/-! How a request ends (spec/60_exceptions.md R202 to R205): refused with INVALID where it violates R202, answered OK where it
only stores a level, and otherwise rendered and answered by its samples; the block is then quiet (R204, R214), and goes on
(R200). -/

namespace Sys2Proof

/-- The requests that raise INVALID (R202). -/
def Instr.Violates : Instr → Prop
  | .illegalZero _ | .illegalSeven _ | .illegalHigh _ _ => True
  | .setbrt _ level => 7 < level.toNat
  | .setdig _ pos glyph => 2 < pos.toNat ∨ 22 < glyph.toNat
  | .setpat _ pos _ => 2 < pos.toNat
  | _ => False

/-- The violations as R202 lists them. -/
theorem Instr.violates_iff (i : Instr) : i.Violates ↔ i.Illegal ∨ (∃ g l, i = .setbrt g l ∧ 7 < l.toNat) ∨
    (∃ g a b, i = .setdig g a b ∧ (2 < a.toNat ∨ 22 < b.toNat)) ∨ (∃ g a b, i = .setpat g a b ∧ 2 < a.toNat) := by
  cases i <;> simp [Instr.Violates, Instr.Illegal]

end Sys2Proof

namespace Sys2Proof.Machine

/-! What a request can do. -/

/-- The code of a rendering request whose samples do not all acknowledge (R203). -/
def failureCode : Instr → Resp
  | .init _ => .nodev
  | _ => .nack

/-- All that a request i can do from s to t. -/
inductive RequestEnds (i : Instr) (s t : State) : Prop
  /-- Validation fails: INVALID is all that is recorded (R202). -/
  | refused (hi : i.Violates) (h : OnlyAnswered s t s.ctl i.opcode i.operand .invalid)
  /-- A level is stored, and no micro-op is performed (spec/42_display_controller.md R166). -/
  | stored (hi : ¬ i.Violates) (c : Control) (h : OnlyAnswered s t c i.opcode i.operand .ok)
  /-- Transactions are sent, and their samples decide the code (R205). -/
  | rendered (hi : ¬ i.Violates) (c : Control) (frames : List (List Byte)) (h : Rendered s t c frames)
    (hcode : c.lastResp = resultCode (failureCode i) (s.acked frames.flatten.length))

/-- The bytes of three renders. -/
theorem threeRenders_flatten_length (p : Params) (b : BitVec 3) (v0 v1 v2 : Byte) :
    (renderFrames p b 0 v0 ++ renderFrames p b 1 v1 ++ renderFrames p b 2 v2).flatten.length = 12 := by
  simp only [List.flatten_append, List.length_append, renderFrames_flatten_length]

/-- The effects of the requests, one by one, are of these three kinds (spec/42_display_controller.md R165 to R170). -/
theorem exec_request_ends {i : Instr} (hi : i.isRequest = true) (s : State) :
    ∃ t, exec i s = .next t ∧ RequestEnds i s t := by
  cases i with
  | init ign =>
    obtain ⟨t, ht, h⟩ := initEffect s ign
    exact ⟨t, ht, .rendered id _ _ h (by rw [threeRenders_flatten_length]; rfl)⟩
  | clear ign =>
    obtain ⟨t, ht, h⟩ := clearEffect s ign
    exact ⟨t, ht, .rendered id _ _ h (by rw [threeRenders_flatten_length]; rfl)⟩
  | setint v =>
    obtain ⟨-, t, ht, h⟩ := setintEffect s v
    exact ⟨t, ht, .rendered id _ _ h (by rw [threeRenders_flatten_length]; rfl)⟩
  | setbrt ign level =>
    obtain ⟨hlegal, hillegal⟩ := setbrtEffect s ign level
    by_cases hv : 7 < level.toNat
    · obtain ⟨t, ht, h⟩ := hillegal hv
      exact ⟨t, ht, .refused hv h⟩
    · obtain ⟨t, ht, h⟩ := hlegal (Nat.not_lt.1 hv)
      exact ⟨t, ht, .stored hv _ h⟩
  | setdig ign pos glyph =>
    obtain ⟨hlegal, hillegal⟩ := setdigEffect s ign pos glyph
    by_cases hv : 2 < pos.toNat ∨ 22 < glyph.toNat
    · obtain ⟨t, ht, h⟩ := hillegal hv
      exact ⟨t, ht, .refused hv h⟩
    · obtain ⟨hpos, hglyph⟩ := not_or.1 hv
      obtain ⟨t, ht, h⟩ := hlegal (Nat.not_lt.1 hpos) (Nat.not_lt.1 hglyph)
      exact ⟨t, ht, .rendered hv _ _ h (by rw [renderFrames_flatten_length]; rfl)⟩
  | setpat ign pos pat =>
    obtain ⟨hlegal, hillegal⟩ := setpatEffect s ign pos pat
    by_cases hv : 2 < pos.toNat
    · obtain ⟨t, ht, h⟩ := hillegal hv
      exact ⟨t, ht, .refused hv h⟩
    · obtain ⟨t, ht, h⟩ := hlegal (Nat.not_lt.1 hv)
      exact ⟨t, ht, .rendered hv _ _ h (by rw [renderFrames_flatten_length]; rfl)⟩
  | illegalZero arg | illegalSeven arg | illegalHigh sub arg =>
    exact ⟨_, rfl, .refused trivial (s.latch_raiseInvalid _ _)⟩
  | fixedAddr | addr p | data v | dispOn b | dispOff => cases hi

/-! The code. -/

/-- An answer alone, with the fields that it leaves aside named. -/
theorem OnlyAnswered.exists_eq {s t : State} {c : Control} {op : BitVec 4} {arg : BitVec 28} {r : Resp}
    (h : OnlyAnswered s t c op arg r) : ∃ stage latCnt, t = { s with
      ctl := { c.answered op arg r with stage := stage, latCnt := latCnt }
      env := { s.env with
        trace := .response r (s.env.cycles + s.params.respLat) :: s.env.trace
        cycles := s.env.cycles + s.params.respLat + 1 } } :=
  ⟨t.ctl.stage, t.ctl.latCnt, h⟩

theorem Rendered.lastResp {s t : State} {c : Control} {frames : List (List Byte)} (h : Rendered s t c frames) :
    t.ctl.lastResp = c.lastResp := by
  obtain ⟨-, -, -, -, hctl, -⟩ := h
  rw [hctl]

/-- A request draws one sample for each byte it sends. -/
theorem Rendered.draws {s t : State} {c : Control} {frames : List (List Byte)} (h : Rendered s t c frames) :
    t.env.draws = s.env.draws + frames.flatten.length := by
  obtain ⟨-, -, -, -, -, evs, -, -, henv⟩ := h
  rw [henv]

/-- A request that passes validation is answered by the samples it draws; SETBRT draws none (R205). -/
theorem RequestEnds.code_of_valid {i : Instr} {s t : State} (h : RequestEnds i s t) (hi : ¬ i.Violates) :
    t.ctl.lastResp = resultCode (failureCode i) (s.acked (t.env.draws - s.env.draws)) := by
  cases h with
  | refused hv => exact absurd hv hi
  | stored _ c h =>
    obtain ⟨stage, latCnt, rfl⟩ := h.exists_eq
    simp [Control.answered, State.acked, resultCode]
  | rendered _ c frames h hcode => rw [h.lastResp, h.draws, Nat.add_sub_cancel_left, hcode]

/-- INVALID is no answer of the samples. -/
theorem resultCode_failureCode_ne_invalid (i : Instr) (ok : Bool) : resultCode (failureCode i) ok ≠ .invalid := by
  cases ok with
  | true => exact nofun
  | false => cases i <;> exact nofun

/-- INVALID is the answer exactly on a violation (R202). -/
theorem RequestEnds.invalid_iff {i : Instr} {s t : State} (h : RequestEnds i s t) :
    t.ctl.lastResp = .invalid ↔ i.Violates := by
  refine ⟨fun hcode => by_contra fun hi => ?_, fun hi => ?_⟩
  · exact resultCode_failureCode_ne_invalid i _ ((h.code_of_valid hi).symm.trans hcode)
  · cases h with
    | refused _ h =>
      obtain ⟨stage, latCnt, rfl⟩ := h.exists_eq
      rfl
    | stored hv | rendered hv => exact absurd hi hv

theorem RequestEnds.onlyAnswered_of_violates {i : Instr} {s t : State} (h : RequestEnds i s t) (hi : i.Violates) :
    OnlyAnswered s t s.ctl i.opcode i.operand .invalid := by
  cases h with
  | refused _ h => exact h
  | stored hv | rendered hv => exact absurd hi hv

/-- Settles O33: a refused request is only answered, and no other request's code is INVALID. -/
theorem invalidExactlyOnViolation : Obligations.InvalidExactlyOnViolation := by
  intro i s hi
  obtain ⟨t, ht, hends⟩ := exec_request_ends hi s
  refine ⟨t, ht, hends.invalid_iff.trans i.violates_iff, fun hcode => ?_⟩
  obtain ⟨stage, latCnt, rfl⟩ := (hends.onlyAnswered_of_violates (hends.invalid_iff.1 hcode)).exists_eq
  exact ⟨rfl, rfl, rfl, rfl, rfl, rfl, rfl, rfl, rfl, rfl, rfl,
    [.response .invalid (s.env.cycles + s.params.respLat)], rfl, rfl⟩

theorem failureCode_of_ne_init {i : Instr} (h : ∀ g, i ≠ .init g) : failureCode i = .nack := by
  cases i with
  | init g => exact absurd rfl (h g)
  | _ => rfl

/-- Settles O34: the code is `resultCode` of the samples drawn. -/
theorem codeFollowsTheSamples : Obligations.CodeFollowsTheSamples := by
  intro i s hi
  obtain ⟨t, ht, hends⟩ := exec_request_ends hi s
  refine ⟨t, ht, fun hvalid => ?_⟩
  have hcode := hends.code_of_valid fun hv => hvalid (hends.invalid_iff.2 hv)
  refine ⟨fun hack => by rw [hcode, hack]; rfl, fun hnack => ?_⟩
  rw [hnack] at hcode
  refine ⟨?_, fun hne => hcode.trans (failureCode_of_ne_init hne)⟩
  rintro ⟨g, rfl⟩
  exact hcode

/-! The block after its response. -/

/-- The bus is idle after a request if it was before (spec/41_bit_channel.md R138). -/
theorem RequestEnds.bus_idle {i : Instr} {s t : State} (h : RequestEnds i s t) (hs : s.Quiet) :
    t.chan.pos = none ∧ t.chan.waitCnt = 0 ∧ t.pins = Pins.idle := by
  cases h with
  | refused _ h | stored _ _ h =>
    obtain ⟨stage, latCnt, rfl⟩ := h.exists_eq
    exact ⟨hs.pos, hs.wait, hs.pins⟩
  | rendered _ c frames h =>
    obtain ⟨-, hpins, hpos, hwait, -⟩ := h
    exact ⟨hpos, hwait, hpins⟩

/-- Settles O40: a request ends in `respond`, and leaves the bus idle. -/
theorem answeredBlockIsQuiet : Obligations.AnsweredBlockIsQuiet := by
  intro i s hi hs
  obtain ⟨t, ht, hends⟩ := exec_request_ends hi s
  obtain ⟨hpos, hwait, hpins⟩ := hends.bus_idle hs
  obtain ⟨u, r, hu, -⟩ := exec_request_responds hi s
  obtain rfl : t = u.respond r := Host.Outcome.next.inj (ht.symm.trans hu)
  exact ⟨_, hu, ⟨rfl, rfl, rfl, hpos, hwait, hpins⟩, rfl, rfl⟩

/-- A ready block on whose port no request stands only passes the cycle. -/
theorem State.readyCycle_of_no_request {s : State} (h : ∀ w, s.env.reqIn.head? ≠ some (some w)) :
    s.readyCycle = { s with ctl := { s.ctl with respValid := false } }.popReq.pass 1 := by
  unfold State.readyCycle
  split
  · next w rest hreq => exact absurd (congrArg List.head? hreq) (h w)
  · rfl

/-- Settles O46: the cycle ends no response pulse, since a quiet block has none. -/
theorem idleBlockKeepsItsState : Obligations.IdleBlockKeepsItsState := by
  intro s hs hrst hreq
  have hctl : { s.ctl with respValid := false } = s.ctl := by rw [← hs.respValid]
  rw [State.tick_ready hrst hs.busy, State.readyCycle_of_no_request (s := s.popRst) hreq]
  exact ⟨hctl, rfl, rfl, rfl⟩

/-! Going on. -/

/-- A request always has a meaning, and a wire command has one where it has a byte. -/
theorem exec_goes {i : Instr} (h : i.wellFormed = true) (s : State) : ∃ t, exec i s = .next t := by
  cases hi : i.isRequest with
  | true =>
    obtain ⟨u, r, hu, -⟩ := exec_request_responds hi s
    exact ⟨u.respond r, hu⟩
  | false =>
    cases i with
    | fixedAddr | addr p | data v | dispOn b | dispOff => exact ⟨_, exec_wire h rfl⟩
    | init | setbrt | clear | setdig | setpat | setint | illegalZero | illegalSeven | illegalHigh => cases hi

theorem wellFormed_of_isRequest {i : Instr} (h : i.isRequest = true) : i.wellFormed = true := by
  cases i with
  | fixedAddr | addr | data | dispOn | dispOff => cases h
  | init | setbrt | clear | setdig | setpat | setint | illegalZero | illegalSeven | illegalHigh => rfl

/-- No byte reads as ADDR(3) (spec/20_memory.md R51, R56). -/
theorem decodeCommand_wellFormed {p : Params} {b : Byte} {i : Instr} (h : decodeCommand p b = some i) :
    i.wellFormed = true := by
  unfold decodeCommand at h
  split_ifs at h with _ hpos
  · obtain rfl := Option.some.inj h
    rfl
  · obtain rfl := Option.some.inj h
    have hlow : ((b - p.cmdAddrBase).extractLsb' 0 2).toNat < 3 := by
      rw [BitVec.extractLsb'_toNat, Nat.shiftRight_zero]
      omega
    exact decide_eq_true hlow
  · obtain rfl := Option.some.inj h
    rfl
  · obtain rfl := Option.some.inj h
    rfl

theorem decodeWire_wellFormed {p : Params} {place : WirePlace} {b : Byte} {i : Instr}
    (h : decodeWire p place b = .ok i) : i.wellFormed = true := by
  unfold decodeWire at h
  split at h
  · obtain rfl := Except.ok.inj h
    rfl
  · split at h
    · next hi =>
      obtain rfl := Except.ok.inj h
      exact decodeCommand_wellFormed hi
    · cases h

/-- What is fetched has been decoded, and so is no ADDR(3). -/
theorem State.fetch_wellFormed {s t : State} {i : Instr} (h : s.fetch = some (i, t)) : i.wellFormed = true := by
  unfold State.fetch at h
  split at h
  · split at h
    · cases h
      exact wellFormed_of_isRequest (everyWordIsOneRequest _).1
    · cases h
  · split at h
    · split at h
      · next hi =>
        cases h
        exact decodeWire_wellFormed hi
      · cases h
    · cases h

/-- A step is a cycle, an instruction with a meaning, or the construction. -/
theorem State.goes (s : State) : Goes s := by
  rcases step_cases s with hs | ⟨-, -, i, u, hfetch, hs⟩ | ⟨-, -, -, -, hs⟩
  · exact ⟨s.tick, hs⟩
  · obtain ⟨t, ht⟩ := exec_goes (State.fetch_wellFormed hfetch) u
    exact ⟨t, hs.trans ht⟩
  · exact ⟨s.popRst.construct, hs⟩

/-- Settles O55, by induction on the number of steps. -/
theorem everyRunGoesOn : Obligations.EveryRunGoesOn := by
  intro n
  induction n with
  | zero => exact fun _ => trivial
  | succ n ih =>
    intro s
    obtain ⟨t, ht⟩ := s.goes
    exact ⟨t, ht, ih t⟩

end Sys2Proof.Machine
end

section
/-! A cycle of reset, from any state and at either grain (spec/70_reset_and_hazards.md R230, R232). -/

namespace Sys2Proof.Machine

/-- A step in a cycle of reset is that cycle, at either grain. -/
theorem step_of_rst {s : State} (hrst : s.rstLevel = true) : step s = .next s.resetCycle := by
  have htick : s.tick = s.resetCycle := by
    rw [State.tick, hrst]
    rfl
  unfold step
  rw [hrst, htick]
  cases s.env.grain <;> rfl

theorem State.reqReady_of_rst {s : State} (hrst : s.rstLevel = true) : s.reqReady = false := by
  rw [State.reqReady, State.busyNow, hrst, Bool.or_true]
  rfl

theorem State.respValidPort_of_rst {s : State} (hrst : s.rstLevel = true) : s.respValidPort = false := by
  rw [State.respValidPort, hrst, Bool.not_true, Bool.and_false]

/-- Settles O49: `resetCycle` starts from `State.resetFor` and writes the surroundings alone. -/
theorem resetCycleAbandonsEverything : Obligations.ResetCycleAbandonsEverything := by
  intro s hrst
  exact ⟨s.resetCycle, step_of_rst hrst, rfl, rfl, rfl, rfl, rfl, rfl, rfl, rfl, rfl, rfl, rfl, rfl, rfl, rfl, rfl, rfl,
    rfl, rfl, rfl, rfl, rfl, State.reqReady_of_rst hrst, State.respValidPort_of_rst hrst, rfl⟩

end Sys2Proof.Machine
end

section
/-! Hazards on the bus (spec/70_reset_and_hazards.md R235, R242): the levels of DIO while CLK is high, and the wait after
every micro-op. -/

namespace Sys2Proof.Machine

/-! DIO while CLK is high (R242). -/

/-- One script after another. -/
theorem dioSteady_append (q : Nat) (b : List (MicroOp × Bool)) : ∀ (a : List (MicroOp × Bool)) (p : Pins) (c : Nat),
    dioSteady p (scriptEvents q p c (a ++ b)) =
      (dioSteady p (scriptEvents q p c a) &&
        dioSteady (scriptPins p a) (scriptEvents q (scriptPins p a) (scriptEnd q c a) b))
  | [], _, _ => rfl
  | x :: a, p, c => by
    simp only [List.cons_append, scriptEvents, scriptPins, scriptEnd, opEvent, dioSteady, dioSteady_append q b a,
      Bool.and_assoc]

/-- Scripts that keep DIO steady from any pins do so one after another. -/
theorem dioSteady_flatMap {α : Type} (q : Nat) {f : α → List (MicroOp × Bool)}
    (h : ∀ x p c, dioSteady p (scriptEvents q p c (f x)) = true) : ∀ (l : List α) (p : Pins) (c : Nat),
    dioSteady p (scriptEvents q p c (l.flatMap f)) = true
  | [], _, _ => rfl
  | x :: l, p, c => by
    rw [List.flatMap_cons, dioSteady_append, h x, dioSteady_flatMap q h l]
    rfl

/-- A data bit is put on DIO while CLK is low (spec/41_bit_channel.md R126). -/
theorem dioSteady_bitScript (q : Nat) (v : Bool) (p : Pins) (c : Nat) :
    dioSteady p (scriptEvents q p c (bitScript v)) = true := by
  simp [bitScript, scriptEvents, opEvent, pinsAfter, actionOf, dioSteady, mayMoveDio]

/-- The ninth clock raises CLK with DIO already high, and then only releases and re-drives DIO (R128 to R135). -/
theorem dioSteady_ackScript (q : Nat) (v : Bool) (p : Pins) (c : Nat) :
    dioSteady p (scriptEvents q p c (ackScript v)) = true := by
  simp [ackScript, scriptEvents, opEvent, pinsAfter, actionOf, dioSteady, mayMoveDio]

theorem dioSteady_byteScript (q : Nat) (b : Byte) (p : Pins) (c : Nat) :
    dioSteady p (scriptEvents q p c (byteScript b)) = true := by
  rw [byteScript, dioSteady_append, dioSteady_flatMap q (dioSteady_bitScript q), dioSteady_ackScript]
  rfl

/-- Settles O23: START moves DIO at S3 alone, the bytes not while CLK is high, and STOP begins with CLK low. -/
theorem dioMovesOnlyWhereAllowed : Obligations.DioMovesOnlyWhereAllowed := by
  intro s bytes hidle h1 h4
  refine ⟨_, s.send_emits bytes h1 h4, ?_⟩
  rw [hidle, sendScript, dioSteady_append, dioSteady_append, dioSteady_flatMap _ (dioSteady_byteScript _),
    scriptPins_append, scriptPins_bytes _ (List.ne_nil_of_length_pos h1)]
  rfl

/-! Waits (R235). -/

/-- The events of micro-ops from cycle c on that all keep their waits, the last of which has ended in cycle e. -/
structure Paced (q c : Nat) (evs : List PortEvent) (e : Nat) : Prop where
  waits : waitsHonoured q evs
  from_start : ∀ x ∈ opTimes evs, c ≤ x.2
  by_end : ∀ x ∈ opTimes evs, x.2 + 1 + waitOf x.1 * q ≤ e

theorem Paced.nil (q c e : Nat) : Paced q c [] e := ⟨.nil, nofun, nofun⟩

/-- One run of micro-ops after the end of another. -/
theorem Paced.append {q c m m' e : Nat} {a b : List PortEvent} (ha : Paced q c a m) (hb : Paced q m' b e) (hc : c ≤ m)
    (hm : m ≤ m') (he : m' ≤ e) : Paced q c (a ++ b) e where
  waits := by
    rw [waitsHonoured, opTimes_append, List.pairwise_append]
    exact ⟨ha.waits, hb.waits, fun x hx y hy => ((ha.by_end x hx).trans hm).trans (hb.from_start y hy)⟩
  from_start x hx := by
    rw [opTimes_append, List.mem_append] at hx
    rcases hx with hx | hx
    · exact ha.from_start x hx
    · exact (hc.trans hm).trans (hb.from_start x hx)
  by_end x hx := by
    rw [opTimes_append, List.mem_append] at hx
    rcases hx with hx | hx
    · exact ((ha.by_end x hx).trans hm).trans he
    · exact hb.by_end x hx

/-- A micro-op and its wait. -/
theorem Paced.micro (q c : Nat) (m : MicroOp) (p : Pins) : Paced q c [opEvent m c p] (c + 1 + waitOf m * q) where
  waits := List.pairwise_singleton _ _
  from_start x hx := by
    obtain rfl := List.mem_singleton.1 hx
    exact Nat.le_refl c
  by_end x hx := by
    obtain rfl := List.mem_singleton.1 hx
    exact Nat.le_refl _

theorem le_scriptEnd (q : Nat) (l : List (MicroOp × Bool)) (c : Nat) : c ≤ scriptEnd q c l := by
  rw [scriptEnd_eq]
  exact Nat.le_add_right _ _

theorem scriptEvents_paced (q : Nat) : ∀ (l : List (MicroOp × Bool)) (p : Pins) (c : Nat),
    Paced q c (scriptEvents q p c l) (scriptEnd q c l)
  | [], _, c => .nil q c c
  | (m, _) :: l, _, c =>
    (Paced.micro q c m _).append (scriptEvents_paced q l _ _) (by omega) (Nat.le_refl _) (le_scriptEnd q l _)

theorem le_framesEnd (q g : Nat) : ∀ (frames : List (List Byte)) (first : Bool) (c : Nat),
    c ≤ framesEnd q g first c frames
  | [], _, _ => Nat.le_refl _
  | f :: frames, first, c =>
    have hgap : c ≤ if first then c else c + g := by split <;> omega
    (hgap.trans (le_scriptEnd q _ _)).trans (le_framesEnd q g frames false _)

/-- Between two transactions the last wait is over, whatever the gap. -/
theorem framesEvents_paced (q g : Nat) : ∀ (frames : List (List Byte)) (first : Bool) (p : Pins) (c : Nat),
    Paced q c (framesEvents q g first p c frames) (framesEnd q g first c frames)
  | [], _, _, c => .nil q c c
  | f :: frames, first, p, c => by
    have hgap : c ≤ if first then c else c + g := by split <;> omega
    have hstart := (Paced.nil q c c).append (scriptEvents_paced q (sendScript f) p (if first then c else c + g))
      (Nat.le_refl c) hgap (le_scriptEnd q _ _)
    exact hstart.append (framesEvents_paced q g frames false _ _) (hgap.trans (le_scriptEnd q _ _)) (Nat.le_refl _)
      (le_framesEnd q g frames false _)

/-- From s to t every micro-op was followed no earlier than its wait. -/
def KeepsWaits (s t : State) : Prop := ∃ evs, Emits s t evs ∧ waitsHonoured s.params.qCycles evs

/-- A response follows no micro-op too early. -/
theorem KeepsWaits.respond {s u : State} (h : KeepsWaits s u) (r : Resp) : KeepsWaits s (u.respond r) := by
  obtain ⟨evs, hevs, hwaits⟩ := h
  refine ⟨_, hevs.respond r, ?_⟩
  rw [waitsHonoured, opTimes_append]
  exact (List.append_nil _).symm ▸ hwaits

/-- A request that performs no micro-op. -/
theorem KeepsWaits.of_trace_eq {s u : State} (h : u.env.trace = s.env.trace) : KeepsWaits s u := ⟨[], h, .nil⟩

/-- Transactions sent after registers were written. -/
theorem Sends.keepsWaits {s u t : State} {first : Bool} {frames : List (List Byte)} {c : Control}
    (h : Sends u t first frames c) (hcfg : u.cfg = s.cfg) (htrace : u.env.trace = s.env.trace) : KeepsWaits s t := by
  have hparams : u.params = s.params := congrArg Subtype.val hcfg
  refine ⟨framesEvents _ _ _ _ _ frames, by rw [Emits, h.env, htrace], ?_⟩
  rw [hparams]
  exact (framesEvents_paced _ _ _ _ _ _).waits

/-- Every request ends in `respond`, and keeps its waits before it: it is answered alone, or sends transactions. -/
theorem exec_request_keepsWaits {i : Instr} (hi : i.isRequest = true) (s : State) :
    ∃ u r, exec i s = .next (u.respond r) ∧ KeepsWaits s u := by
  cases i with
  | init ign => exact ⟨_, _, rfl, (State.showAll_sends _ _ _ _).keepsWaits rfl rfl⟩
  | setbrt ign level =>
    rw [exec, execSetbrt]
    split
    · exact ⟨_, _, rfl, .of_trace_eq rfl⟩
    · exact ⟨_, _, rfl, .of_trace_eq rfl⟩
  | clear ign => exact ⟨_, _, rfl, (State.showAll_sends _ _ _ _).keepsWaits rfl rfl⟩
  | setdig ign pos glyph =>
    rw [exec, execSetdig]
    split
    · exact ⟨_, _, rfl, (State.show_sends _ _ _ _).keepsWaits rfl rfl⟩
    · exact ⟨_, _, rfl, .of_trace_eq rfl⟩
  | setpat ign pos pat =>
    rw [exec, execSetpat]
    split
    · exact ⟨_, _, rfl, (State.show_sends _ _ _ _).keepsWaits rfl rfl⟩
    · exact ⟨_, _, rfl, .of_trace_eq rfl⟩
  | setint value => exact ⟨_, _, rfl, (State.showAll_sends _ _ _ _).keepsWaits rfl rfl⟩
  | illegalZero arg | illegalSeven arg | illegalHigh sub arg => exact ⟨_, _, rfl, .of_trace_eq rfl⟩
  | fixedAddr | addr p | data v | dispOn b | dispOff => cases hi

/-- Settles O24: a request has one outcome, and its response comes after all its waits. -/
theorem requestsHonourEveryWait : Obligations.RequestsHonourEveryWait := by
  intro i s t hi ht
  obtain ⟨u, r, hu, hwaits⟩ := exec_request_keepsWaits hi s
  obtain rfl : t = u.respond r := Host.Outcome.next.inj (ht.symm.trans hu)
  exact hwaits.respond r

end Sys2Proof.Machine
end

section
/-! The clock against the meanings, one micro-op and one transaction at a time (spec/70_reset_and_hazards.md R244): the clock
comes from the S1 of a transaction to its end, with the state that `send` gives it. -/

namespace Sys2Proof.Machine

/-! Time on the clock. -/

/-- A cycle is one cycle. -/
theorem State.tick_cycles (s : State) : s.tick.env.cycles = s.env.cycles + 1 := by
  rcases s.tick_cases with ⟨-, h⟩ | ⟨-, -, h⟩ | ⟨-, -, -, h⟩ | ⟨-, -, -, ⟨-, h⟩ | ⟨-, h⟩ | ⟨-, h⟩ | ⟨-, h⟩⟩
  · rw [h]
    rfl
  · rw [h, State.readyCycle]
    split
    · rw [State.pass_env, (State.dispatch_keepsRequest _).env]
      rfl
    · rfl
  · rw [h]
    rfl
  · rw [h, State.pass_env, (State.startInit_keepsRequest _).env]
    rfl
  · rw [h, State.issueCycle, (State.launch_shows_nothing _).1]
    split <;> rfl
  · rw [h, State.runCycle]
    split
    · split
      · rw [(State.endFrame_shows_nothing _).1]
        rfl
      · rfl
    · split
      · next m _ =>
        obtain ⟨_, _, _, _, _, _, _, _, hm⟩ := State.perform_eq s.popRst m
        rw [hm]
        rfl
      · rw [State.pass_env, (State.endFrame_shows_nothing _).1]
        rfl
  · rw [h, State.respCycle]
    split <;> rfl

theorem State.iterate_tick_cycles (s : State) : ∀ n, (State.tick^[n] s).env.cycles = s.env.cycles + n
  | 0 => rfl
  | n + 1 => by rw [Function.iterate_succ_apply', State.tick_cycles, State.iterate_tick_cycles s n, Nat.add_assoc]

/-- Clocked, s comes to t. -/
def State.Runs (s t : State) : Prop := ∃ n, State.tick^[n] s = t

theorem State.Runs.refl (s : State) : s.Runs s := ⟨0, rfl⟩

theorem State.Runs.trans {s t u : State} (h : s.Runs t) (h' : t.Runs u) : s.Runs u := by
  obtain ⟨n, rfl⟩ := h
  obtain ⟨m, rfl⟩ := h'
  exact ⟨m + n, Function.iterate_add_apply _ _ _ _⟩

theorem State.Runs.tick (s : State) : s.Runs s.tick := ⟨1, rfl⟩

/-- The states' own times tell how many cycles a run took. -/
theorem State.Runs.iterate_eq {s t : State} (h : s.Runs t) {n : Nat} (hn : t.env.cycles = s.env.cycles + n) :
    State.tick^[n] s = t := by
  obtain ⟨m, rfl⟩ := h
  rw [State.iterate_tick_cycles, Nat.add_left_cancel_iff] at hn
  rw [hn]

/-! Micro-ops. -/

/-- A transaction is being sent, out of reset, with no wait: p is the micro-op performed next, none at its end. -/
structure State.OnBus (s : State) (p : Option MicroOp) : Prop where
  rstIn : s.env.rstIn = []
  busy : s.ctl.busy = true
  respValid : s.ctl.respValid = false
  stage : s.ctl.stage = .run
  latency : s.ctl.latCnt = 0
  wait : s.chan.waitCnt = 0
  pos : s.chan.pos = p

/-- Clocked, s comes to t, where m is the micro-op performed next. -/
structure State.Reaches (s t : State) (m : MicroOp) : Prop where
  runs : s.Runs t
  onBus : t.OnBus (some m)

section Reaches

variable {s t : State} {m m' : MicroOp}

/-- The clock performs a micro-op and its wait as `op` does (spec/41_bit_channel.md R122). -/
theorem State.Reaches.op (h : s.Reaches t m) (hpos : (t.op m).chan.pos = some m') (hm : m ≠ .p3 := by decide) :
    s.Reaches (t.op m) m' where
  runs :=
    have hop := microOpTakesItsWait t m h.onBus.busy h.onBus.respValid h.onBus.stage h.onBus.wait h.onBus.pos h.onBus.rstIn
    h.runs.trans ⟨_, hop.1 hm⟩
  onBus := by
    have hctl : (t.op m).ctl = t.ctl := t.perform_ctl m
    exact ⟨(t.perform_rstIn m).trans h.onBus.rstIn, hctl ▸ h.onBus.busy, hctl ▸ h.onBus.respValid,
      hctl ▸ h.onBus.stage, hctl ▸ h.onBus.latency, rfl, hpos⟩

theorem State.Reaches.sendStart (h : s.Reaches t .s1) : s.Reaches t.sendStart .b1 :=
  ((h.op (m' := .s2) rfl).op (m' := .s3) rfl).op rfl

theorem State.Reaches.sendBit (h : s.Reaches t .b1) (hpos : t.sendBit.chan.pos = some m') : s.Reaches t.sendBit m' :=
  ((h.op (m' := .b2) rfl).op (m' := .b3) rfl).op hpos

theorem State.Reaches.sendAck (h : s.Reaches t .a1) (hpos : t.sendAck.chan.pos = some m') : s.Reaches t.sendAck m' :=
  ((((((h.op (m' := .a2) rfl).op (m' := .a3) rfl).op (m' := .a4) rfl).op (m' := .a5) rfl).op (m' := .a6) rfl).op
    (m' := .a7) rfl).op hpos

/-- The data bits of a byte from bit k on. -/
theorem State.Reaches.sendBits : ∀ (n k : Nat) {t : State}, s.Reaches t .b1 → t.chan.bitIdx = BitVec.ofNat 3 k →
    k + n = 7 → s.Reaches (State.sendBits (n + 1) t) .a1 := by
  intro n
  induction n with
  | zero =>
    intro k t h hk hn
    obtain rfl : k = 7 := by omega
    have hlast : ¬ t.chan.bitIdx.toNat < 7 := by rw [hk]; decide
    exact h.sendBit (by rw [State.sendBit_eq, State.after_chan, if_neg hlast])
  | succ n ih =>
    intro k t h hk hn
    have hmore : t.chan.bitIdx.toNat < 7 := by rw [hk, BitVec.toNat_ofNat]; omega
    have hchan : t.sendBit.chan = { t.chan with pos := some .b1, bitIdx := t.chan.bitIdx + 1, waitCnt := 0 } := by
      rw [State.sendBit_eq, State.after_chan, if_pos hmore]
    refine ih (k + 1) (h.sendBit (by rw [hchan])) ?_ (by omega)
    rw [hchan, hk]
    exact (BitVec.ofNat_add k 1).symm

theorem State.Reaches.sendByte (h : s.Reaches t .b1) (hbit : t.chan.bitIdx = 0) (hpos : t.sendByte.chan.pos = some m') :
    s.Reaches t.sendByte m' :=
  have hbits : s.Reaches (State.sendBits 8 t) .a1 := State.Reaches.sendBits 7 0 h hbit rfl
  hbits.sendAck hpos

/-- The bytes of the frame from byte j on, m + 1 of them up to the frame's end. -/
theorem State.Reaches.sendBytes : ∀ (m j : Nat) {t : State}, s.Reaches t .b1 → t.chan.bitIdx = 0 →
    t.chan.byteIdx.toNat = j → j + m + 1 = t.chan.frameLen.toNat → t.chan.frameLen.toNat ≤ 4 →
    s.Reaches (State.sendBytes (m + 1) t) .p1 := by
  intro m
  induction m with
  | zero =>
    intro j t h hbit hbyte hlen h4
    have hchan := congrArg State.chan (t.sendByte_eq hbit)
    rw [State.after_chan] at hchan
    obtain ⟨hpos, -⟩ := Channel.afterByte_of_last (c := t.chan) t.env.dioIn t.env.draws (by omega)
    exact h.sendByte hbit (by rw [hchan, hpos])
  | succ m ih =>
    intro j t h hbit hbyte hlen h4
    have hchan := congrArg State.chan (t.sendByte_eq hbit)
    rw [State.after_chan] at hchan
    obtain ⟨hpos, hbit', hbyte'⟩ := Channel.afterByte_of_more (c := t.chan) t.env.dioIn t.env.draws (by omega)
    refine ih (j + 1) (h.sendByte hbit (by rw [hchan, hpos])) (by rw [hchan, hbit']) ?_ ?_ ?_
    · rw [hchan, hbyte', byteIdx_succ_toNat (by omega), hbyte]
    · rw [hchan, Channel.afterByte_frameLen, ← hlen]
      omega
    · rwa [hchan, Channel.afterByte_frameLen]

/-- The wait of P3 counts down, and its last cycle ends the transaction (spec/41_bit_channel.md R136). -/
theorem State.runs_endFrame : ∀ (n : Nat) (s : State), s.env.rstIn = [] → s.ctl.busy = true → s.ctl.respValid = false →
    s.ctl.stage = .run → s.chan.pos = none → s.chan.waitCnt = n + 1 → s.Runs s.elapse.endFrame := by
  intro n
  induction n with
  | zero =>
    intro s hrst hbusy hvalid hstage hpos hwait
    have htick : s.tick = s.elapse.endFrame := by
      rw [State.tick_run s hrst hbusy hvalid hstage, State.runCycle, if_pos (by omega), if_pos ⟨hwait, hpos⟩,
        State.countWait, State.elapse, hwait]
      rfl
    exact htick ▸ .tick s
  | succ n ih =>
    intro s hrst hbusy hvalid hstage hpos hwait
    have htick : s.tick = s.countWait := by
      rw [State.tick_run s hrst hbusy hvalid hstage, State.runCycle, if_pos (by omega), if_neg (by omega)]
    have helapse : s.countWait.elapse = s.elapse := by
      have hcycles : s.env.cycles + 1 + (s.chan.waitCnt - 1) = s.env.cycles + s.chan.waitCnt := by omega
      simp only [State.countWait, State.elapse, State.pass, hcycles]
    have h := ih s.countWait hrst hbusy hvalid hstage hpos (by show s.chan.waitCnt - 1 = n + 1; omega)
    rw [helapse] at h
    exact (htick ▸ State.Runs.tick s).trans h

/-- The clock performs P3, and the end of its wait is the end of the transaction. -/
theorem State.OnBus.p3 (h : t.OnBus (some .p3)) : t.Runs (t.op .p3).endFrame := by
  obtain ⟨n, hn⟩ : ∃ n, t.params.qCycles = n + 1 := ⟨_, (Nat.sub_add_cancel t.qCycles_pos).symm⟩
  have htick : t.tick = t.perform .p3 := by
    rw [State.tick_run t h.rstIn h.busy h.respValid h.stage, State.runCycle, if_neg (by simp [h.wait]), h.pos]
  refine (State.Runs.tick t).trans ?_
  rw [htick]
  exact State.runs_endFrame n _ h.rstIn h.busy h.respValid h.stage rfl
    (by rw [State.perform_waitCnt, hn]; exact Nat.one_mul _)

end Reaches

/-- Clocked, a transaction loaded and due is sent as `send` sends it, up to its end (spec/41_bit_channel.md R137). -/
theorem State.send_runs {x : State} {bytes : List Byte} (h1 : 1 ≤ bytes.length) (h4 : bytes.length ≤ 4)
    (h : ((x.loadFrame bytes).goTo .s1).OnBus (some .s1)) :
    ((x.loadFrame bytes).goTo .s1).Runs (x.send bytes).endFrame := by
  obtain ⟨m, hm⟩ : ∃ m, bytes.length = m + 1 := ⟨_, (Nat.sub_add_cancel h1).symm⟩
  have hstart := State.Reaches.sendStart ⟨.refl _, h⟩
  have hchan := congrArg State.chan ((x.loadFrame bytes).goTo .s1).sendStart_eq
  have hlen : ((x.loadFrame bytes).goTo .s1).sendStart.chan.frameLen.toNat = bytes.length := by
    rw [hchan]
    exact x.loadFrame_frameLen h4
  have hbytes := State.Reaches.sendBytes m 0 hstart (by rw [hchan]; rfl) (by rw [hchan]; rfl) (by omega) (by omega)
  rw [← hm] at hbytes
  have hstop := (hbytes.op (m' := .p2) rfl).op (m' := .p3) rfl
  exact hstop.runs.trans hstop.onBus.p3

end Sys2Proof.Machine
end

section
/-! The clock against the meanings, one render and one response at a time (spec/70_reset_and_hazards.md R244): how the
sequencer goes on after a transaction, and what that comes to. -/

namespace Sys2Proof.Machine

/-! The sequencer's stage is read by no transaction. -/

/-- s with the sequencer sending a transaction. -/
def State.running (s : State) : State := { s with ctl := { s.ctl with stage := .run, latCnt := 0 } }

theorem State.send_running (s : State) {bytes : List Byte} (h1 : 1 ≤ bytes.length) (h4 : bytes.length ≤ 4) :
    s.running.send bytes = (s.send bytes).running := by
  rw [State.send_eq _ bytes h1 h4, State.send_eq _ bytes h1 h4]
  rfl

/-- Transactions leave the bus to the sequencer, out of reset. -/
theorem Sends.onBus {s t : State} {first : Bool} {frames : List (List Byte)} {c : Control} (h : Sends s t first frames c)
    (hs : s.running.OnBus none) (hbusy : c.busy = s.ctl.busy) (hvalid : c.respValid = s.ctl.respValid) :
    t.running.OnBus none where
  rstIn := (congrArg Env.rstIn h.env).trans hs.rstIn
  busy := ((congrArg Control.busy h.ctl).trans hbusy).trans hs.busy
  respValid := ((congrArg Control.respValid h.ctl).trans hvalid).trans hs.respValid
  stage := rfl
  latency := rfl
  wait := h.wait
  pos := h.pos

/-! A transaction. -/

/-- The transactions of the render of position pos. -/
def State.renderTxs (s : State) (pos : Fin 3) : List (List Byte) :=
  renderFrames s.params s.ctl.bright pos (segmentsOf s.params (s.ctl.disp.get pos))

/-- The transaction of the given bytes is loaded and its S1 is due, after the gap unless it is the request's first. -/
def State.atFrame (s : State) (first : Bool) (tx : Fin 3) (bytes : List Byte) : State :=
  (((if first then s else s.gap).setCurTx tx).loadFrame bytes).goTo .s1

/-- Transaction tx of the render of position pos is loaded and its S1 is due. -/
def State.atTx (s : State) (first : Bool) (pos tx : Fin 3) : State :=
  s.atFrame first tx ((s.renderTxs pos).getD tx.val [])

/-- Clocked, y comes to the end of a transaction whose result, folded into OP_ACK, gives t. -/
def State.Finishes (y t : State) : Prop := ∃ v : State, v.foldOpAck = t ∧ y.Runs v.endFrame

theorem State.Finishes.of_runs {x y t : State} (h : x.Runs y) (h' : y.Finishes t) : x.Finishes t := by
  obtain ⟨v, hv, hruns⟩ := h'
  exact ⟨v, hv, h.trans hruns⟩

theorem State.atFrame_onBus {x : State} (hx : x.OnBus none) (first : Bool) (tx : Fin 3) (bytes : List Byte) :
    (x.atFrame first tx bytes).OnBus (some .s1) := by
  cases first <;> exact ⟨hx.rstIn, hx.busy, hx.respValid, hx.stage, hx.latency, hx.wait, rfl⟩

/-- Clocked, a transaction ends as `sendFrame` ends it. -/
theorem State.sendFrame_finishes {x : State} (hx : x.running.OnBus none) (first : Bool) (tx : Fin 3) {bytes : List Byte}
    (h1 : 1 ≤ bytes.length) (h4 : bytes.length ≤ 4) :
    (x.running.atFrame first tx bytes).Finishes (x.sendFrame first tx bytes).running := by
  have hruns := State.send_runs h1 h4 (State.atFrame_onBus hx first tx bytes)
  refine ⟨_, ?_, hruns⟩
  cases first with
  | true => exact congrArg State.foldOpAck (State.send_running (x.setCurTx tx) h1 h4)
  | false => exact congrArg State.foldOpAck (State.send_running (x.gap.setCurTx tx) h1 h4)

/-! After a transaction. -/

/-- The next transaction of a render follows. -/
theorem State.endFrame_of_more {v : State} {pos : Fin 3} (hpos : v.foldOpAck.renderPos = some pos)
    (hmore : v.foldOpAck.ctl.curTx.val + 1 < frameCount v.foldOpAck.params) :
    v.endFrame = ((v.foldOpAck.beginTx pos (v.foldOpAck.ctl.curTx + 1)).loadWait v.foldOpAck.params.gapQ).launch := by
  simp only [State.endFrame, hpos, if_pos hmore]

/-- The next position's render follows. -/
theorem State.endFrame_of_next {v : State} (hall : v.foldOpAck.rendersAll = true)
    (hlast : ¬ v.foldOpAck.ctl.curTx.val + 1 < frameCount v.foldOpAck.params) (hp : v.foldOpAck.ctl.curP.val < 2) :
    v.endFrame = (((v.foldOpAck.setCurP (v.foldOpAck.ctl.curP + 1)).beginRender (v.foldOpAck.ctl.curP + 1)
      (v.foldOpAck.nextGlyph (v.foldOpAck.ctl.curP + 1))).loadWait v.foldOpAck.params.gapQ).launch := by
  simp only [State.endFrame, State.renderPos_of_rendersAll hall, if_neg hlast, hall, hp, decide_true, Bool.and_true, if_true]

/-- The response follows. -/
theorem State.endFrame_of_last {v : State} (hlast : ¬ v.foldOpAck.ctl.curTx.val + 1 < frameCount v.foldOpAck.params)
    (hend : v.foldOpAck.rendersAll = true → ¬ v.foldOpAck.ctl.curP.val < 2) :
    v.endFrame = v.foldOpAck.schedule v.foldOpAck.outcome v.foldOpAck.params.respLat := by
  have hnext : ¬ (v.foldOpAck.rendersAll && decide (v.foldOpAck.ctl.curP.val < 2)) = true := by
    rw [Bool.and_eq_true, decide_eq_true_iff]
    exact fun h => hend h.1 h.2
  simp only [State.endFrame]
  cases v.foldOpAck.renderPos with
  | none => rfl
  | some pos => simp only [if_neg hlast, if_neg hnext]

/-- An awaited S1 comes due when the gap is over (spec/41_bit_channel.md R146). -/
theorem State.launch_runs {z : State} (hrst : z.env.rstIn = []) (hbusy : z.ctl.busy = true)
    (hvalid : z.ctl.respValid = false) (hstage : z.ctl.stage = .issue) (hlat : z.ctl.latCnt = 0) :
    z.launch.Runs { z with
      chan := { z.chan with pos := some .s1, waitCnt := 0 }
      ctl := { z.ctl with stage := .run, latCnt := 0 }
      env := { z.env with cycles := z.env.cycles + z.chan.waitCnt } } := by
  rcases Nat.eq_zero_or_pos z.chan.waitCnt with hwait | hwait
  · have hgo : z.launch = { z.goTo .s1 with ctl := { z.ctl with stage := .run } } := if_pos ⟨hlat, hwait⟩
    refine ⟨0, ?_⟩
    rw [hgo]
    simp only [Function.iterate_zero, id_eq, State.goTo, hwait, hlat, Nat.add_zero]
  · have hkeep : z.launch = z := if_neg (by omega)
    have h := State.tick_launch z hrst hbusy hvalid hstage (.inl ⟨hlat, hwait⟩)
    rw [hlat, Nat.zero_add] at h
    rw [hkeep]
    exact ⟨_, h⟩

/-- A block between two transactions, with its own values written out. -/
theorem State.OnBus.eq {x : State} {p : Option MicroOp} (h : x.OnBus p) : x = { x with
    chan := { x.chan with waitCnt := 0 }, ctl := { x.ctl with stage := .run, latCnt := 0 } } := by
  have hchan : { x.chan with waitCnt := 0 } = x.chan := by rw [← h.wait]
  have hctl : { x.ctl with stage := .run, latCnt := 0 } = x.ctl := by rw [← h.stage, ← h.latency]
  rw [hchan, hctl]

/-- After the gap, a transaction of the same request is loaded and due. -/
theorem State.beginTx_runs {x : State} (hx : x.OnBus none) (pos tx : Fin 3) :
    ((x.beginTx pos tx).loadWait x.params.gapQ).launch.Runs (x.atTx false pos tx) := by
  have h := State.launch_runs (z := (x.beginTx pos tx).loadWait x.params.gapQ) hx.rstIn hx.busy hx.respValid rfl hx.latency
  have hdue : x.atTx false pos tx = _ := congrArg (State.atTx · false pos tx) hx.eq
  rw [hdue]
  exact h

/-- Clocked, a render goes on with its next transaction. -/
theorem State.Finishes.next_tx {y t : State} {pos : Fin 3} (h : y.Finishes t) (ht : t.OnBus none)
    (hpos : t.renderPos = some pos) (hmore : t.ctl.curTx.val + 1 < frameCount t.params) :
    y.Runs (t.atTx false pos (t.ctl.curTx + 1)) := by
  obtain ⟨v, rfl, hruns⟩ := h
  rw [State.endFrame_of_more hpos hmore] at hruns
  exact hruns.trans (State.beginTx_runs ht pos _)

/-! A render. -/

/-- The position rendered is the request registers' alone. -/
theorem State.renderPos_congr {s t : State} (hop : t.ctl.curOp = s.ctl.curOp) (harg : t.ctl.curArg = s.ctl.curArg)
    (hp : t.ctl.curP = s.ctl.curP) : t.renderPos = s.renderPos := by
  rw [State.renderPos, State.renderPos, State.rendersAll, State.rendersAll, hop, harg, hp]

/-- A render's transactions are the same wherever it stands. -/
theorem State.renderTxs_congr {s t : State} (hcfg : t.cfg = s.cfg) (hbright : t.ctl.bright = s.ctl.bright)
    (hdisp : t.ctl.disp = s.ctl.disp) (pos : Fin 3) : t.renderTxs pos = s.renderTxs pos := by
  rw [State.renderTxs, State.renderTxs, State.params, hcfg, hbright, hdisp]

/-- Where two transactions are left, the second is the next one. -/
theorem State.renderTxs_next {s : State} {pos tx : Fin 3} {f f' : List Byte} {rest : List (List Byte)}
    (h : (s.renderTxs pos).drop tx.val = f :: f' :: rest) :
    tx.val + 1 < frameCount s.params ∧ (s.renderTxs pos).drop (tx + 1).val = f' :: rest ∧
      (s.renderTxs pos).getD (tx + 1).val [] = f' := by
  have hlen := congrArg List.length h
  rw [List.length_drop, State.renderTxs, renderFrames_length, List.length_cons, List.length_cons] at hlen
  have hmore : tx.val + 1 < frameCount s.params := by omega
  have htx : (tx + 1).val = tx.val + 1 := Fin.val_add_one_of_lt' (hmore.trans_le (frameCount_le_three _))
  have hdrop : (s.renderTxs pos).drop (tx + 1).val = f' :: rest := by
    rw [htx, ← List.tail_drop, h]
    rfl
  refine ⟨hmore, hdrop, ?_⟩
  rw [List.getD_eq_getElem?_getD, ← List.head?_drop, hdrop]
  rfl

/-- Clocked, the transactions of a render from index tx on are sent one after another, as `sendFrames` sends them. -/
theorem State.sendFrames_finishes {pos : Fin 3} : ∀ (rest : List (List Byte)) (f : List Byte) (tx : Fin 3) (first : Bool)
    {x : State}, x.running.OnBus none → x.renderPos = some pos → (x.renderTxs pos).drop tx.val = f :: rest →
    (x.running.atFrame first tx f).Finishes (State.sendFrames (f :: rest) first tx x).running := by
  intro rest
  induction rest with
  | nil =>
    intro f tx first x hx hpos hdrop
    obtain ⟨h1, h4⟩ := renderFrames_lengths _ _ _ _ f (List.mem_of_mem_drop (hdrop ▸ List.mem_cons_self))
    exact State.sendFrame_finishes hx first tx h1 h4
  | cons f' rest ih =>
    intro f tx first x hx hpos hdrop
    obtain ⟨h1, h4⟩ := renderFrames_lengths _ _ _ _ f (List.mem_of_mem_drop (hdrop ▸ List.mem_cons_self))
    obtain ⟨hmore, hdrop', hnext⟩ := State.renderTxs_next hdrop
    have hfirst := State.sendFrame_finishes hx first tx h1 h4
    have hsends := x.sendFrame_sends first tx f h1 h4
    rw [State.sendFrames]
    generalize x.sendFrame first tx f = t at hfirst hsends ⊢
    have ht := hsends.onBus hx rfl rfl
    have hctl := hsends.ctl
    have htxs : t.renderTxs pos = x.renderTxs pos :=
      State.renderTxs_congr hsends.cfg (by rw [hctl]) (by rw [hctl]) pos
    have hpos' : t.renderPos = some pos := by
      rw [← hpos]
      exact State.renderPos_congr (by rw [hctl]) (by rw [hctl]) (by rw [hctl])
    obtain rfl : t.ctl.curTx = tx := by rw [hctl]
    have hruns := hfirst.next_tx ht hpos' (congrArg (frameCount ·.val) hsends.cfg ▸ hmore)
    have hdue : t.running.atTx false pos (t.ctl.curTx + 1) = t.running.atFrame false (t.ctl.curTx + 1) f' := by
      rw [← hnext, ← htxs]
      rfl
    exact .of_runs (hdue ▸ hruns) (ih f' _ false ht hpos' (htxs ▸ hdrop'))

/-- Clocked, a render ends as `show` ends it, DISP being written before its first transaction. -/
theorem State.show_finishes {x : State} {pos : Fin 3} (hx : x.running.OnBus none) (hpos : x.renderPos = some pos)
    (first : Bool) (g : GlyphRef) :
    ((x.running.setDisp pos g).atTx first pos 0).Finishes (x.show first pos g).running := by
  have hglyph : (x.setDisp pos g).ctl.disp.get pos = g := Vector.getElem_set_self _
  have hx' : (x.setDisp pos g).running.OnBus none := ⟨hx.rstIn, hx.busy, hx.respValid, rfl, rfl, hx.wait, hx.pos⟩
  have hframes : (x.setDisp pos g).renderTxs pos = renderFrames x.params x.ctl.bright pos (segmentsOf x.params g) := by
    rw [State.renderTxs, hglyph]
    rfl
  obtain ⟨f, rest, hfr⟩ := List.exists_cons_of_ne_nil (renderFrames_ne x.params x.ctl.bright pos (segmentsOf x.params g))
  rw [hfr] at hframes
  have hfirst : (x.running.setDisp pos g).atTx first pos 0 = (x.setDisp pos g).running.atFrame first 0 f := by
    have hbytes : ((x.setDisp pos g).renderTxs pos).getD (0 : Fin 3).val [] = f := by
      rw [hframes]
      rfl
    rw [← hbytes]
    rfl
  have hshow : x.show first pos g = State.sendFrames (f :: rest) first 0 (x.setDisp pos g) := by
    rw [← hfr]
    rfl
  rw [hfirst, hshow]
  exact State.sendFrames_finishes rest f 0 first hx' hpos hframes

/-! The next position. -/

theorem lastTx_add_one (p : Params) : (lastTx p).val + 1 = frameCount p := by
  rw [lastTx, frameCount]
  cases p.framing <;> rfl

/-- Clocked, y comes to the end of the render of position p by a request that renders every position. -/
structure State.Shown (y t : State) (p : Fin 3) : Prop where
  finishes : y.Finishes t.running
  onBus : t.running.OnBus none
  rendersAll : t.rendersAll = true
  curP : t.ctl.curP = p
  curTx : t.ctl.curTx = lastTx t.params

/-- Clocked, a request goes on with its next position. -/
theorem State.Finishes.next_pos {y t : State} {p : Fin 3} (h : y.Finishes t) (ht : t.OnBus none)
    (hall : t.rendersAll = true) (hlast : t.ctl.curTx = lastTx t.params) (hcur : t.ctl.curP = p) (hp : p.val < 2) :
    y.Runs (((t.setCurP (p + 1)).setDisp (p + 1) (t.nextGlyph (p + 1))).atTx false (p + 1) 0) := by
  obtain ⟨v, rfl, hruns⟩ := h
  subst hcur
  rw [State.endFrame_of_next hall (by rw [hlast, lastTx_add_one]; omega) hp] at hruns
  exact hruns.trans (State.beginTx_runs
    (x := (v.foldOpAck.setCurP (v.foldOpAck.ctl.curP + 1)).setDisp _ (v.foldOpAck.nextGlyph (v.foldOpAck.ctl.curP + 1)))
    ⟨ht.rstIn, ht.busy, ht.respValid, ht.stage, ht.latency, ht.wait, ht.pos⟩ _ 0)

/-- A render of a request that renders every position, from its S1 on. -/
theorem State.shown_of_show {y x : State} {p : Fin 3} {first : Bool} {g : GlyphRef} (hx : x.running.OnBus none)
    (hall : x.rendersAll = true) (hcur : x.ctl.curP = p) (h : y.Runs ((x.running.setDisp p g).atTx first p 0)) :
    y.Shown (x.show first p g) p where
  finishes := .of_runs h (State.show_finishes hx (hcur ▸ State.renderPos_of_rendersAll hall) first g)
  onBus := (x.show_sends first p g).onBus hx rfl rfl
  rendersAll := by
    rw [State.rendersAll, (x.show_sends first p g).ctl]
    exact hall
  curP := by rw [(x.show_sends first p g).ctl]; exact hcur
  curTx := by
    rw [State.params, State.show_cfg, (x.show_sends first p g).ctl]

theorem State.Shown.next {y t : State} {p : Fin 3} {g : GlyphRef} (h : y.Shown t p) (hp : p.val < 2)
    (hg : t.nextGlyph (p + 1) = g) : y.Shown ((t.setCurP (p + 1)).show false (p + 1) g) (p + 1) := by
  subst hg
  have hbus := h.onBus
  exact State.shown_of_show (x := t.setCurP (p + 1))
    ⟨hbus.rstIn, hbus.busy, hbus.respValid, rfl, rfl, hbus.wait, hbus.pos⟩ h.rendersAll rfl
    (h.finishes.next_pos hbus h.rendersAll h.curTx h.curP hp)

/-- A render leaves alone what decides the next glyph. -/
theorem State.show_nextGlyph (s : State) (first : Bool) (pos : Fin 3) (g : GlyphRef) (p : Fin 3) :
    (s.show first pos g).nextGlyph p = s.nextGlyph p := by
  rw [State.nextGlyph, State.nextGlyph, State.params, State.show_cfg, (s.show_sends first pos g).ctl]

/-! The response. -/

/-- Clocked, a response scheduled n cycles ahead is posted, and its pulse ends (spec/42_display_controller.md R161). -/
theorem State.schedule_runs {s : State} (hrst : s.env.rstIn = []) (hbusy : s.ctl.busy = true) (r : Resp) (n : Nat) :
    (s.schedule r n).Runs ((s.prepareResponse r).pass n).closeResponse := by
  cases n with
  | zero =>
    have htick := State.tick_posted (s.schedule r 0) hrst hbusy rfl
    exact ⟨1, htick⟩
  | succ n =>
    have hcount := State.tick_respLat n (s.schedule r (n + 1)) hrst hbusy rfl rfl (Nat.le_refl n)
    refine ⟨n + 1 + 1, ?_⟩
    rw [Function.iterate_succ_apply', Function.iterate_succ_apply', hcount]
    have hlat : (s.schedule r (n + 1)).ctl.latCnt - n = 0 := Nat.sub_self n
    rw [hlat]
    have hpost := State.tick_resp { s.schedule r (n + 1) with
      ctl := { (s.schedule r (n + 1)).ctl with latCnt := 0 }
      env := { (s.schedule r (n + 1)).env with cycles := (s.schedule r (n + 1)).env.cycles + n } } hrst hbusy rfl rfl
    rw [State.respCycle, if_neg (by exact Nat.lt_irrefl 0)] at hpost
    rw [hpost]
    exact State.tick_posted _ hrst hbusy rfl

/-- Clocked, a request without a transaction is answered (R161). -/
theorem State.answer_runs {s : State} (hrst : s.env.rstIn = []) (hbusy : s.ctl.busy = true) (r : Resp) :
    ((s.answer r).pass 1).Runs (s.respond r) := by
  have h := State.schedule_runs (s := s.pass 1) hrst hbusy r (s.params.respLat - 1)
  have hlat : (((s.pass 1).prepareResponse r).pass (s.params.respLat - 1)).closeResponse = s.respond r := by
    have hcycles : s.env.cycles + 1 + (s.params.respLat - 1) = s.env.cycles + s.params.respLat := by
      have := s.respLat_pos
      omega
    simp only [State.respond, State.pass, State.prepareResponse, hcycles]
  exact hlat ▸ h

/-- The code of a rendering request whose samples do not all acknowledge. -/
def State.failure (s : State) : Resp := if s.ctl.curOp == 1 then .nodev else .nack

/-- The sequencer's code is that of a rendering request's meaning. -/
theorem State.respond_outcome (s : State) : s.respond s.outcome = s.respondAck s.failure := rfl

/-- Clocked, a rendering request is answered after its last transaction (spec/60_exceptions.md R205). -/
theorem State.Finishes.respond {y t : State} (h : y.Finishes t.running) (ht : t.running.OnBus none)
    (hlast : t.ctl.curTx = lastTx t.params) (hend : t.rendersAll = true → ¬ t.ctl.curP.val < 2) :
    y.Runs (t.respondAck t.failure) := by
  obtain ⟨v, hv, hruns⟩ := h
  have hmore : ¬ v.foldOpAck.ctl.curTx.val + 1 < frameCount v.foldOpAck.params := by
    rw [hv]
    show ¬ t.ctl.curTx.val + 1 < frameCount t.params
    rw [hlast, lastTx_add_one]
    omega
  rw [State.endFrame_of_last hmore (by rw [hv]; exact hend), hv] at hruns
  rw [← State.respond_outcome]
  exact hruns.trans (State.schedule_runs ht.rstIn ht.busy _ _)

/-! A whole request. -/

/-- A request has been accepted, and nothing of it is on the bus yet. -/
structure State.Accepted (s : State) : Prop where
  rstIn : s.env.rstIn = []
  busy : s.ctl.busy = true
  respValid : s.ctl.respValid = false
  pos : s.chan.pos = none
  wait : s.chan.waitCnt = 0

/-- Clocked, the first S1 of a request comes due ISSUE_LAT cycles after acceptance (spec/41_bit_channel.md R146). -/
theorem State.beginBus_runs {s : State} (hs : s.Accepted) (pos : Fin 3) (g : GlyphRef) :
    ((s.beginBus pos g).pass 1).Runs ((s.issue.running.setDisp pos g).atTx true pos 0) := by
  have h := State.tick_launched (u := s.awaitBus pos g) hs.rstIn hs.busy hs.respValid rfl hs.wait
  have hlat : (s.awaitBus pos g).ctl.latCnt + 1 = s.params.issueLat := Nat.sub_add_cancel s.issueLat_pos
  rw [hlat, ← State.beginBus_eq] at h
  have hchan : { s.chan with waitCnt := 0 } = s.chan := by rw [← hs.wait]
  have hdue : (s.issue.running.setDisp pos g).atTx true pos 0 =
      ((({ s with chan := { s.chan with waitCnt := 0 } } : State).issue.running.setDisp pos g).atTx true pos 0) := by
    rw [hchan]
  rw [hdue]
  exact ⟨_, h⟩

theorem State.Accepted.running {s : State} (hs : s.Accepted) : s.issue.running.OnBus none :=
  ⟨hs.rstIn, hs.busy, hs.respValid, rfl, rfl, hs.wait, hs.pos⟩

/-- Clocked, a request that renders one position does what its meaning does. -/
theorem State.show_runs {s : State} (hs : s.Accepted) (hone : s.rendersAll = false) {pos : Fin 3}
    (hpos : legalPos (argPos s.ctl.curArg) = some pos) (g : GlyphRef) :
    ((s.beginBus pos g).pass 1).Runs ((s.issue.show true pos g).respondAck s.failure) := by
  have hsends := s.issue.show_sends true pos g
  have hfinishes := State.Finishes.of_runs (State.beginBus_runs hs pos g)
    (State.show_finishes (x := s.issue) hs.running ((State.renderPos_of_one hone).trans hpos) true g)
  have hall : (s.issue.show true pos g).rendersAll = false := by
    rw [State.rendersAll, hsends.ctl]
    exact hone
  have hfailure : (s.issue.show true pos g).failure = s.failure := by
    rw [State.failure, hsends.ctl]
    rfl
  rw [← hfailure]
  refine hfinishes.respond (hsends.onBus hs.running rfl rfl) ?_ (by simp [hall])
  rw [State.params, hsends.cfg, hsends.ctl]

/-- Clocked, a request that renders every position does what its meaning does. -/
theorem State.showAll_runs {s : State} (hs : s.Accepted) (hall : s.rendersAll = true) {g0 g1 g2 : GlyphRef}
    (hg1 : s.nextGlyph 1 = g1) (hg2 : s.nextGlyph 2 = g2) :
    (((s.setCurP 0).beginBus 0 g0).pass 1).Runs ((s.issue.showAll g0 g1 g2).respondAck s.failure) := by
  have hs' : (s.setCurP 0).Accepted := ⟨hs.rstIn, hs.busy, hs.respValid, hs.pos, hs.wait⟩
  have h0 := State.shown_of_show (x := s.issue.setCurP 0) (p := 0) hs'.running hall rfl (State.beginBus_runs hs' 0 g0)
  have h1 := h0.next (g := g1) Nat.two_pos ((State.show_nextGlyph _ _ _ _ _).trans hg1)
  have h2 := h1.next (g := g2) Nat.one_lt_two
    ((State.show_nextGlyph _ _ _ _ _).trans ((State.show_nextGlyph _ _ _ _ _).trans hg2))
  have hfailure : (s.issue.showAll g0 g1 g2).failure = s.failure := by
    rw [State.failure, (s.issue.showAll_sends g0 g1 g2).ctl]
    rfl
  rw [← hfailure]
  exact h2.finishes.respond h2.onBus h2.curTx fun _ => Nat.not_lt.2 (congrArg Fin.val h2.curP).ge

end Sys2Proof.Machine
end

section
/-! The clock against the meanings, request by request (spec/70_reset_and_hazards.md R244), and the construction after reset
(R231, R234). -/

namespace Sys2Proof.Machine

/-! How long a request takes. -/

/-- A run shows one list of events. -/
theorem SendsFrames.unique {s t : State} {a b : List (List Byte)} (ha : SendsFrames s t a) (hb : SendsFrames s t b) :
    a = b := by
  obtain ⟨evs, hevs, rfl⟩ := ha
  obtain ⟨evs', hevs', rfl⟩ := hb
  rw [List.reverse_injective (List.append_cancel_right (hevs.symm.trans hevs'))]

/-- A request's time is that of the transactions it sends and of its response. -/
theorem RequestEnds.cycles {i : Instr} {s t : State} (h : RequestEnds i s t) : ∃ frames, SendsFrames s t frames ∧
    t.env.cycles = s.env.cycles + requestCycles s.params (frames.map List.length) + 1 := by
  cases h with
  | refused _ h | stored _ _ h =>
    refine ⟨[], h.sendsFrames, ?_⟩
    obtain ⟨stage, latCnt, rfl⟩ := h.exists_eq
    rfl
  | rendered _ c frames h =>
    refine ⟨frames, h.sendsFrames, ?_⟩
    obtain ⟨-, -, -, -, -, evs, -, -, henv⟩ := h
    rw [henv]

/-- The time of R244, with the response cycle. -/
theorem exec_request_cycles {i : Instr} {s t : State} (hi : i.isRequest = true) (ht : exec i s = .next t) :
    t.env.cycles = s.env.cycles + (requestCycles s.params (requestLens s.params i) + 1) := by
  obtain ⟨u, hu, hends⟩ := exec_request_ends hi s
  obtain ⟨v, hv, hframes⟩ := exec_sendsFrames hi s
  obtain rfl : t = u := Host.Outcome.next.inj (ht.symm.trans hu)
  obtain rfl : t = v := Host.Outcome.next.inj (ht.symm.trans hv)
  obtain ⟨frames, hsent, hcycles⟩ := hends.cycles
  rw [hcycles, hsent.unique hframes, rendersFrames_map_length, requestRenders_lens, Nat.add_assoc]

/-! Dispatch by operand (spec/42_display_controller.md R166 to R169), the registers being as acceptance has written them. -/

section Dispatch

variable (s : State)

section Setbrt

variable (ign : BitVec 20) {level : Byte}

theorem State.latch_setbrt_dispatch_of_legal {b : BitVec 3} (hl : legalLevel level = some b) :
    (s.latch 2 (ign ++ level)).dispatch = ((s.latch 2 (ign ++ level)).setBright b).answer .ok := by
  have hlevel : (ign ++ level).extractLsb' 0 8 = level := BitVec.extractLsb'_append_eq_right
  rw [← hlevel] at hl
  simp only [State.dispatch, State.latch_ctl, argLow, hl]
  rfl

theorem State.latch_setbrt_dispatch_of_illegal (hl : legalLevel level = none) :
    (s.latch 2 (ign ++ level)).dispatch = (s.latch 2 (ign ++ level)).answer .invalid := by
  have hlevel : (ign ++ level).extractLsb' 0 8 = level := BitVec.extractLsb'_append_eq_right
  rw [← hlevel] at hl
  simp only [State.dispatch, State.latch_ctl, argLow, hl]
  rfl

end Setbrt

variable (ign : BitVec 12) {pos : Byte}

theorem State.latch_setdig_dispatch_of_legal {glyph : Byte} {p : Fin 3} {g : Fin 23} (hp : legalPos pos = some p)
    (hg : legalGlyph glyph = some g) : (s.latch 4 (ign ++ pos ++ glyph)).dispatch =
      (s.latch 4 (ign ++ pos ++ glyph)).beginBus p (.index g) := by
  obtain ⟨-, hpos, hglyph⟩ := operand_fields ign pos glyph
  rw [← hpos] at hp
  rw [← hglyph] at hg
  simp only [State.dispatch, State.latch_ctl, argPos, argLow, hp, hg]
  rfl

theorem State.latch_setdig_dispatch_of_illegal {glyph : Byte} (h : legalPos pos = none ∨ legalGlyph glyph = none) :
    (s.latch 4 (ign ++ pos ++ glyph)).dispatch = (s.latch 4 (ign ++ pos ++ glyph)).answer .invalid := by
  obtain ⟨-, hpos, hglyph⟩ := operand_fields ign pos glyph
  rcases h with hp | hg
  · rw [← hpos] at hp
    simp only [State.dispatch, State.latch_ctl, argPos, hp]
    rfl
  · rw [← hglyph] at hg
    simp only [State.dispatch, State.latch_ctl, argPos, argLow, hpos, hg]
    cases legalPos pos <;> rfl

theorem State.latch_setpat_dispatch_of_legal {p : Fin 3} (hp : legalPos pos = some p) (pat : Byte) :
    (s.latch 5 (ign ++ pos ++ pat)).dispatch = (s.latch 5 (ign ++ pos ++ pat)).beginBus p (.raw pat) := by
  obtain ⟨-, hpos, hpat⟩ := operand_fields ign pos pat
  rw [← hpos] at hp
  simp only [State.dispatch, State.latch_ctl, argPos, argLow, hp, hpat]
  rfl

theorem State.latch_setpat_dispatch_of_illegal (hp : legalPos pos = none) (pat : Byte) :
    (s.latch 5 (ign ++ pos ++ pat)).dispatch = (s.latch 5 (ign ++ pos ++ pat)).answer .invalid := by
  obtain ⟨-, hpos, -⟩ := operand_fields ign pos pat
  rw [← hpos] at hp
  simp only [State.dispatch, State.latch_ctl, argPos, hp]
  rfl

/-- SETDIG and SETPAT render the position that they name. -/
theorem legalPos_argPos {p : Fin 3} (hp : legalPos pos = some p) (v : Byte) :
    legalPos (argPos (ign ++ pos ++ v)) = some p := by
  obtain ⟨-, hpos, -⟩ := operand_fields ign pos v
  rw [argPos, hpos, hp]

end Dispatch

/-! Each request. -/

/-- Blank is the next glyph of INIT and CLEAR. -/
theorem State.nextGlyph_of_blank {s : State} (hop : s.ctl.curOp = 1 ∨ s.ctl.curOp = 3) (p : Fin 3) :
    s.nextGlyph p = blankRef s.params := by
  rw [State.nextGlyph]
  rcases hop with h | h
  · rw [h]
    rfl
  · rw [h]
    rfl

/-- Clocked, the construction, INIT's or that after reset, does what its meaning does. -/
theorem State.construct_runs {s : State} (hs : s.Accepted) (hop : s.ctl.curOp = 1) :
    (s.startInit.pass 1).Runs s.construct := by
  have hs' : (s.outputMode.setBright brightDefault).Accepted := ⟨hs.rstIn, hs.busy, hs.respValid, hs.pos, hs.wait⟩
  have hfailure : (s.outputMode.setBright brightDefault).failure = .nodev := by
    rw [State.failure]
    exact if_pos (by rw [State.setBright_ctl, State.outputMode_ctl, hop]; rfl)
  have h := State.showAll_runs hs' (State.rendersAll_iff _ |>.2 (.inl hop)) (g0 := blankRef s.params)
    (State.nextGlyph_of_blank (.inl hop) 1) (State.nextGlyph_of_blank (.inl hop) 2)
  rw [hfailure] at h
  exact h

/-- The clock does what a request means: i has been accepted in s. -/
def RunsItsMeaning (i : Instr) (s : State) : Prop :=
  ∃ t, exec i s = .next t ∧ ((s.latch i.opcode i.operand).dispatch.pass 1).Runs t

section EachRequest

variable {s : State} (hs : s.Quiet) (hrst : s.env.rstIn = [])

include hs hrst

/-- A quiet block has latched a request. -/
theorem State.Quiet.accepted (op : BitVec 4) (arg : BitVec 28) : (s.latch op arg).Accepted :=
  ⟨hrst, rfl, rfl, hs.pos, hs.wait⟩

theorem setbrt_runs (ign : BitVec 20) (level : Byte) : RunsItsMeaning (.setbrt ign level) s := by
  have hacc := hs.accepted hrst 2 (ign ++ level)
  cases hl : legalLevel level with
  | none =>
    have h := State.answer_runs hacc.rstIn hacc.busy .invalid
    rw [← State.latch_setbrt_dispatch_of_illegal s ign hl] at h
    exact ⟨_, by rw [exec, execSetbrt, hl]; rfl, h⟩
  | some b =>
    have h := State.answer_runs (s := (s.latch 2 (ign ++ level)).setBright b) hacc.rstIn hacc.busy .ok
    rw [← State.latch_setbrt_dispatch_of_legal s ign hl] at h
    exact ⟨_, by rw [exec, execSetbrt, hl], h⟩

theorem setdig_runs (ign : BitVec 12) (pos glyph : Byte) : RunsItsMeaning (.setdig ign pos glyph) s := by
  have hacc := hs.accepted hrst 4 (ign ++ pos ++ glyph)
  have hrefused (hill : legalPos pos = none ∨ legalGlyph glyph = none) : RunsItsMeaning (.setdig ign pos glyph) s := by
    have h := State.answer_runs hacc.rstIn hacc.busy .invalid
    rw [← State.latch_setdig_dispatch_of_illegal s ign hill] at h
    exact ⟨_, exec_setdig_of_illegal hill ign s, h⟩
  cases hp : legalPos pos with
  | none => exact hrefused (.inl hp)
  | some p =>
    cases hg : legalGlyph glyph with
    | none => exact hrefused (.inr hg)
    | some g =>
      have h := State.show_runs hacc rfl (legalPos_argPos ign hp glyph) (.index g)
      rw [← State.latch_setdig_dispatch_of_legal s ign hp hg] at h
      exact ⟨_, exec_setdig_of_legal hp hg ign s, h⟩

theorem setpat_runs (ign : BitVec 12) (pos pat : Byte) : RunsItsMeaning (.setpat ign pos pat) s := by
  have hacc := hs.accepted hrst 5 (ign ++ pos ++ pat)
  cases hp : legalPos pos with
  | none =>
    have h := State.answer_runs hacc.rstIn hacc.busy .invalid
    rw [← State.latch_setpat_dispatch_of_illegal s ign hp pat] at h
    exact ⟨_, exec_setpat_of_illegal hp ign pat s, h⟩
  | some p =>
    have h := State.show_runs hacc rfl (legalPos_argPos ign hp pat) (.raw pat)
    rw [← State.latch_setpat_dispatch_of_legal s ign hp pat] at h
    exact ⟨_, exec_setpat_of_legal hp ign pat s, h⟩

theorem setint_runs (v : BitVec 28) : RunsItsMeaning (.setint v) s :=
  have hacc : ((s.latch 6 v).setDigits (digitsOf v)).Accepted := ⟨hrst, rfl, rfl, hs.pos, hs.wait⟩
  ⟨_, rfl, State.showAll_runs hacc rfl rfl rfl⟩

theorem clear_runs (ign : BitVec 28) : RunsItsMeaning (.clear ign) s :=
  have hblank := State.nextGlyph_of_blank (s := s.latch 3 ign) (.inr rfl)
  ⟨_, rfl, State.showAll_runs (hs.accepted hrst 3 ign) rfl (hblank 1) (hblank 2)⟩

theorem illegalHigh_runs (k : BitVec 3) (arg : BitVec 28) : RunsItsMeaning (.illegalHigh k arg) s := by
  have hacc := hs.accepted hrst ((1 : BitVec 1) ++ k) arg
  have h := State.answer_runs hacc.rstIn hacc.busy .invalid
  rw [← State.dispatch_of_high (s := s.latch ((1 : BitVec 1) ++ k) arg) (one_append_high k)] at h
  exact ⟨_, rfl, h⟩

/-- Clocked, every request that a quiet block accepts does what its meaning does. -/
theorem exec_request_runs {i : Instr} (hi : i.isRequest = true) : RunsItsMeaning i s := by
  cases i with
  | init ign => exact ⟨_, rfl, State.construct_runs (hs.accepted hrst 1 ign) rfl⟩
  | setbrt ign level => exact setbrt_runs hs hrst ign level
  | clear ign => exact clear_runs hs hrst ign
  | setdig ign pos glyph => exact setdig_runs hs hrst ign pos glyph
  | setpat ign pos pat => exact setpat_runs hs hrst ign pos pat
  | setint v => exact setint_runs hs hrst v
  | illegalZero arg => exact ⟨_, rfl, State.answer_runs (s := s.latch 0 arg) hrst rfl .invalid⟩
  | illegalSeven arg => exact ⟨_, rfl, State.answer_runs (s := s.latch 7 arg) hrst rfl .invalid⟩
  | illegalHigh k arg => exact illegalHigh_runs hs hrst k arg
  | fixedAddr | addr p | data v | dispOn b | dispOff => cases hi

end EachRequest

/-- Settles O47: the clock comes to the state that the meaning gives, and the times of the two tell in how many cycles. -/
theorem clockedRunIsTheMeaning : Obligations.ClockedRunIsTheMeaning := by
  intro s w rest hquiet hrst hreq
  have hi := (everyWordIsOneRequest w).1
  have hpop : ({ s with env := { s.env with reqIn := rest } } : State) = s.popReq := by rw [State.popReq, hreq]; rfl
  have hquiet' : s.popReq.Quiet :=
    ⟨hquiet.busy, hquiet.respValid, hquiet.latency, hquiet.pos, hquiet.wait, hquiet.pins⟩
  obtain ⟨t, ht, hruns⟩ := exec_request_runs hquiet' hrst hi
  have haccept := State.tick_accept hrst hquiet.busy hreq
  have hword : (decodeRequest w).opcode = w.extractLsb' 28 4 ∧ (decodeRequest w).operand = w.extractLsb' 0 28 := by
    rw [decodeRequest_eq, opcode_requestOf, operand_requestOf]
    exact ⟨rfl, rfl⟩
  rw [hword.1, hword.2, ← haccept] at hruns
  have hcycles : t.env.cycles = s.env.cycles + (requestCycles s.params (requestLens s.params (decodeRequest w)) + 1) :=
    exec_request_cycles (s := s.popReq) hi ht
  rw [hpop, ht, ((State.Runs.tick s).trans hruns).iterate_eq hcycles]

/-! The construction after reset (R231). -/

/-- At grain `request`, the construction is the first step after reset. -/
theorem step_resetFor (c : Config) {e : Env} (hrst : e.rstIn = []) (hgrain : e.grain = .request) :
    step (State.resetFor c e) = .next (State.resetFor c e).construct := by
  have hlevel : (State.resetFor c e).rstLevel = false := by
    rw [State.rstLevel]
    exact congrArg (List.headD · false) hrst
  have hpop : (State.resetFor c e).popRst = State.resetFor c e := by
    have henv : { e with rstIn := e.rstIn.tail } = e := by rw [hrst, List.tail_nil, ← hrst]
    exact congrArg (State.resetFor c) henv
  have hg : (State.resetFor c e).env.grain = .request := hgrain
  have hfetch : (State.resetFor c e).fetch = none := rfl
  have hboot : (State.resetFor c e).atBoot = true := rfl
  simp only [step, hg, hlevel, hpop, hfetch, hboot, Bool.false_eq_true, if_false, if_true]

/-- Settles O48: the construction is INIT's meaning, reset having latched INIT, and the clock comes to it. -/
theorem constructionFollowsReset : Obligations.ConstructionFollowsReset := by
  intro c e hrst
  generalize he : ({ e with grain := .request } : Env) = e'
  have hrst' : e'.rstIn = [] := he ▸ hrst
  have hgrain : e'.grain = .request := he ▸ rfl
  have hexec : exec (.init 0) (State.resetFor c e') = .next (State.resetFor c e').construct := rfl
  have hacc : (State.resetFor c e').Accepted := ⟨hrst', rfl, rfl, rfl, rfl⟩
  have hruns := (State.Runs.tick _).trans (State.tick_resetFor c hrst' ▸ State.construct_runs hacc rfl)
  have hcycles := exec_request_cycles (i := .init 0) rfl hexec
  refine ⟨?_, _, step_resetFor c hrst' hgrain, hexec, ?_⟩
  · rw [step_resetFor c hrst' hgrain, ← hruns.iterate_eq hcycles]
    rfl
  · obtain ⟨t, ht, -, hpins, hpos, hwait, -⟩ := initEffect (State.resetFor c e') 0
    obtain rfl : (State.resetFor c e').construct = t := Host.Outcome.next.inj (hexec.symm.trans ht)
    exact ⟨rfl, rfl, rfl, hpos, hwait, hpins⟩

end Sys2Proof.Machine
end
